-- ==== Sys2Proof/Word.lean ====
section
/-! DEFINITION. The two word types of the core (spec 00_scope.md R5, R6, R7). Every value is
unsigned, and `BitVec` arithmetic wraps at the width: `+` on `Byte` is the spec's `+8` and on
`Addr` its `+16`. -/

namespace Sys2Proof

/-- A byte, bits 7 down to 0: registers A, X, Y, SP, the status byte, one memory cell. -/
abbrev Byte := BitVec 8

/-- A 16-bit address or word, bits 15 down to 0: PC, effective addresses, pointers. -/
abbrev Addr := BitVec 16

end Sys2Proof
end

