-- ==== Sys2Proof/Config.lean ====
section
/-! DEFINITION. What the spec fixes for every model, and the one configuration value it names and
leaves without a value. The constants the spec chose by a decision D<n> (stack base, reset values,
vector, load origin, `PLA_SETS_ZN`) stand in Machine/Params.lean, and the default opcode table in
Decode.lean: there a repair may still mend one. -/

namespace Sys2Proof.Config

/-- Size of the address space in bytes (10_state.md R36: "65536 bytes, not 65535"). -/
def memSize : Nat := 65536

/-- The longest instruction, in bytes (30_encoding.md R90). -/
def maxInstrLength : Nat := 3

/-- The renderer's options, listed in 00_scope.md R5 and 70_reset_and_hazards.md R356: "configuration
values the core does not itself interpret". -/
structure RendererGeometry where
  outputWidth : Nat
  outputHeight : Nat
  nativeWidth : Nat
  nativeHeight : Nat
  scaleFactor : Nat
  lookupTableSpan : Nat
  deriving DecidableEq, Repr, Inhabited

/-- A free value: the spec gives the geometry no value and no rule reads it (R356, log 21), so it has
no body and no definition of the model mentions it. -/
opaque rendererGeometry : RendererGeometry

end Sys2Proof.Config
end

