-- ==== Sys2Proof/Syntax.lean ====
section
/-! DEFINITION. The instructions as syntax: one constructor per mnemonic of spec/opcode_table.json
(30_encoding.md R95), with what tells its rows apart as an argument: the addressing mode, the form of
JMP, or the byte of an unrecognized row. Operand bytes are no part of an instruction here: the opcode
byte alone decides it (R91, R92), and a handler reads its operand bytes from memory through
`EA(mode)` (20_memory.md R70). -/

namespace Sys2Proof

/-- The closed set of addressing-mode tags (20_memory.md R70). `noneAddressing` is the accumulator or
an implicit operand, and never resolves (R80). -/
inductive Mode where
  | immediate
  | zeroPage
  | zeroPageX
  | zeroPageY
  | absolute
  | absoluteX
  | absoluteY
  | indirectX
  | indirectY
  | noneAddressing
  deriving DecidableEq, Repr

/-- The two rows of JMP. Both carry the tag NoneAddressing (30_encoding.md R95, D21): the 6502's
absolute form 0x4C and its indirect form 0x6C. -/
inductive JmpForm where
  | absolute
  | indirect
  deriving DecidableEq, Repr

/-- Every mnemonic of the opcode table, in the order of 30_encoding.md R95. -/
inductive Instr where
  /-- 0x00, the halt instruction (R126). -/
  | brk
  /-- 0xEA (R127). -/
  | nop
  /-- Unimplemented (R130). -/
  | bcc
  /-- Unimplemented (R131). -/
  | bcs
  /-- Unimplemented (R132). -/
  | beq
  /-- Unimplemented (R133). -/
  | bmi
  /-- Unimplemented (R134). -/
  | bne
  /-- Unimplemented (R135). -/
  | bpl
  /-- Unimplemented (R136). -/
  | bvc
  /-- Unimplemented (R137). -/
  | bvs
  /-- Unimplemented (R138). -/
  | jmp (form : JmpForm)
  /-- Unimplemented (R139). -/
  | jsr
  /-- Unimplemented (R140). -/
  | rts
  /-- Unimplemented (R141). -/
  | rti
  /-- Load accumulator (R160). -/
  | lda (m : Mode)
  /-- Load X (R161). -/
  | ldx (m : Mode)
  /-- Load Y (R162). -/
  | ldy (m : Mode)
  /-- Store accumulator (R163). -/
  | sta (m : Mode)
  /-- Store X (R164). -/
  | stx (m : Mode)
  /-- Store Y (R165). -/
  | sty (m : Mode)
  /-- A to X (R180). -/
  | tax
  /-- A to Y (R181). -/
  | tay
  /-- SP to X (R182). -/
  | tsx
  /-- X to A (R183). -/
  | txa
  /-- Y to A (R184). -/
  | tya
  /-- X to SP (R185). -/
  | txs
  /-- Increment memory (R200). -/
  | inc (m : Mode)
  /-- Decrement memory (R201). -/
  | dec (m : Mode)
  /-- Increment X (R202). -/
  | inx
  /-- Increment Y (R203). -/
  | iny
  /-- Decrement X (R204). -/
  | dex
  /-- Decrement Y (R205). -/
  | dey
  /-- Bitwise AND into A (R220). -/
  | and (m : Mode)
  /-- Bitwise exclusive OR into A (R221). -/
  | eor (m : Mode)
  /-- Bitwise inclusive OR into A (R222). -/
  | ora (m : Mode)
  /-- Shift left, of memory or (NoneAddressing) the accumulator (R223). -/
  | asl (m : Mode)
  /-- Unimplemented (R224). -/
  | bit (m : Mode)
  /-- Unimplemented (R225). -/
  | lsr (m : Mode)
  /-- Unimplemented (R226). -/
  | rol (m : Mode)
  /-- Unimplemented (R227). -/
  | ror (m : Mode)
  /-- Pull accumulator (R240). -/
  | pla
  /-- Unimplemented (R241). -/
  | pha
  /-- Unimplemented (R242). -/
  | php
  /-- Clear carry (R243). -/
  | clc
  /-- Clear decimal (R244). -/
  | cld
  /-- Clear interrupt disable (R245). -/
  | cli
  /-- Clear overflow (R246). -/
  | clv
  /-- Set carry (R247). -/
  | sec
  /-- Set decimal (R248). -/
  | sed
  /-- Set interrupt disable (R249). -/
  | sei
  /-- Unimplemented (R250). -/
  | plp
  /-- Unimplemented (R260). -/
  | adc (m : Mode)
  /-- Unimplemented (R261). -/
  | sbc (m : Mode)
  /-- Unimplemented (R262). -/
  | cmp (m : Mode)
  /-- Unimplemented (R263). -/
  | cpx (m : Mode)
  /-- Unimplemented (R264). -/
  | cpy (m : Mode)
  /-- A byte the opcode table does not hold (R97, R300), named by the byte itself. -/
  | unrecognized (op : Byte)
  deriving DecidableEq, Repr

end Sys2Proof
end

