-- ==== Sys2Proof/WellFormed.lean ====
section
/-! DEFINITION. Which terms of `Instr` are instructions of the default opcode table: the modes
30_encoding.md R95 gives each mnemonic, and the 105 unrecognized bytes of R97. The machine itself gives
a meaning to every term, well-formed or not: a handler that needs an address and finds
NoneAddressing faults (20_memory.md R80). -/

namespace Sys2Proof

/-- The eight modes of LDA, AND, EOR, ORA, ADC, SBC and CMP (R95). -/
def accumulatorModes : List Mode :=
  [.immediate, .zeroPage, .zeroPageX, .absolute, .absoluteX, .absoluteY, .indirectX, .indirectY]

/-- The four memory modes of INC and DEC (R95). -/
def modifyModes : List Mode := [.zeroPage, .zeroPageX, .absolute, .absoluteX]

/-- The modes the default table gives a mnemonic that takes one (R95). `none` for a mnemonic that takes
no mode argument. -/
def Instr.allowedModes : Instr → List Mode
  | .lda _ | .and _ | .eor _ | .ora _ | .adc _ | .sbc _ | .cmp _ => accumulatorModes
  | .ldx _ => [.immediate, .zeroPage, .zeroPageY, .absolute, .absoluteY]
  | .ldy _ => [.immediate, .zeroPage, .zeroPageX, .absolute, .absoluteX]
  | .sta _ => [.zeroPage, .zeroPageX, .absolute, .absoluteX, .absoluteY, .indirectX, .indirectY]
  | .stx _ => [.zeroPage, .zeroPageY, .absolute]
  | .sty _ => [.zeroPage, .zeroPageX, .absolute]
  | .inc _ | .dec _ => modifyModes
  | .asl _ | .lsr _ | .rol _ | .ror _ => .noneAddressing :: modifyModes
  | .bit _ => [.zeroPage, .absolute]
  | .cpx _ | .cpy _ => [.immediate, .zeroPage, .absolute]
  | .brk | .nop | .bcc | .bcs | .beq | .bmi | .bne | .bpl | .bvc | .bvs | .jmp _ | .jsr | .rts | .rti
  | .tax | .tay | .tsx | .txa | .tya | .txs | .inx | .iny | .dex | .dey | .pla | .pha | .php
  | .clc | .cld | .cli | .clv | .sec | .sed | .sei | .plp | .unrecognized _ => [.noneAddressing]

/-- The addressing-mode tag of an instruction's table row (R95). -/
def Instr.mode : Instr → Mode
  | .lda m | .ldx m | .ldy m | .sta m | .stx m | .sty m | .inc m | .dec m | .and m | .eor m | .ora m
  | .asl m | .bit m | .lsr m | .rol m | .ror m | .adc m | .sbc m | .cmp m | .cpx m | .cpy m => m
  | .brk | .nop | .bcc | .bcs | .beq | .bmi | .bne | .bpl | .bvc | .bvs | .jmp _ | .jsr | .rts | .rti
  | .tax | .tay | .tsx | .txa | .tya | .txs | .inx | .iny | .dex | .dey | .pla | .pha | .php
  | .clc | .cld | .cli | .clv | .sec | .sed | .sei | .plp | .unrecognized _ => .noneAddressing

/-- The 105 bytes the default table does not hold, as 30_encoding.md R97 lists them. -/
def unrecognizedBytes : List Byte :=
  [0x02, 0x03, 0x04, 0x07, 0x0B, 0x0C, 0x0F, 0x12, 0x13, 0x14, 0x17, 0x1A, 0x1B, 0x1C, 0x1F] ++
  [0x22, 0x23, 0x27, 0x2B, 0x2F, 0x32, 0x33, 0x34, 0x37, 0x3A, 0x3B, 0x3C, 0x3F, 0x42, 0x43] ++
  [0x44, 0x47, 0x4B, 0x4F, 0x52, 0x53, 0x54, 0x57, 0x5A, 0x5B, 0x5C, 0x5F, 0x62, 0x63, 0x64] ++
  [0x67, 0x6B, 0x6F, 0x72, 0x73, 0x74, 0x77, 0x7A, 0x7B, 0x7C, 0x7F, 0x80, 0x82, 0x83, 0x87] ++
  [0x89, 0x8B, 0x8F, 0x92, 0x93, 0x97, 0x9B, 0x9C, 0x9E, 0x9F, 0xA3, 0xA7, 0xAB, 0xAF, 0xB2] ++
  [0xB3, 0xB7, 0xBB, 0xBF, 0xC2, 0xC3, 0xC7, 0xCB, 0xCF, 0xD2, 0xD3, 0xD4, 0xD7, 0xDA, 0xDB] ++
  [0xDC, 0xDF, 0xE2, 0xE3, 0xE7, 0xEB, 0xEF, 0xF2, 0xF3, 0xF4, 0xF7, 0xFA, 0xFB, 0xFC, 0xFF]

/-- An instruction of the default table: its mode is one the table gives its mnemonic, and an
unrecognized byte is one of R97's. -/
def Instr.wf (i : Instr) : Bool :=
  i.allowedModes.contains i.mode &&
    match i with
    | .unrecognized op => unrecognizedBytes.contains op
    | _ => true

/-- A mnemonic with a handler in this core (30_encoding.md R95, column "implemented"). -/
def Instr.implemented : Instr → Bool
  | .brk | .nop | .lda _ | .ldx _ | .ldy _ | .sta _ | .stx _ | .sty _
  | .tax | .tay | .tsx | .txa | .tya | .txs | .inc _ | .dec _ | .inx | .iny | .dex | .dey
  | .and _ | .eor _ | .ora _ | .asl _ | .pla
  | .clc | .cld | .cli | .clv | .sec | .sed | .sei => true
  | .bcc | .bcs | .beq | .bmi | .bne | .bpl | .bvc | .bvs | .jmp _ | .jsr | .rts | .rti
  | .bit _ | .lsr _ | .rol _ | .ror _ | .pha | .php | .plp
  | .adc _ | .sbc _ | .cmp _ | .cpx _ | .cpy _ | .unrecognized _ => false

end Sys2Proof
end

