-- ==== Sys2Proof/Decode.lean ====
section
/-! DEFINITION. The opcode table, the decoder, and after it the encoder. The decoder is a lookup of the
whole opcode byte in the table (30_encoding.md R91) written from R95; the encoder is written from the
encoding lines of the instruction rules (R126 to R264), so that each checks the other. -/

namespace Sys2Proof

/-- An opcode descriptor: byte value, mnemonic and mode (together an `Instr`), and length in bytes
(00_scope.md R11). -/
structure Descriptor where
  byte : Byte
  instr : Instr
  length : Nat
  deriving DecidableEq, Repr

/-- The content of an opcode table, the parameter `OPCODE_TABLE` of 00_scope.md R5. -/
abbrev OpcodeTable := List Descriptor

/-! ### The default table -/

/-- BRK, NOP and the control transfers (30_encoding.md R95). -/
def controlRows : OpcodeTable :=
  [⟨0x00, .brk, 1⟩, ⟨0xEA, .nop, 1⟩, ⟨0x90, .bcc, 2⟩, ⟨0xB0, .bcs, 2⟩, ⟨0xF0, .beq, 2⟩,
   ⟨0x30, .bmi, 2⟩, ⟨0xD0, .bne, 2⟩, ⟨0x10, .bpl, 2⟩, ⟨0x50, .bvc, 2⟩, ⟨0x70, .bvs, 2⟩,
   ⟨0x4C, .jmp .absolute, 3⟩, ⟨0x6C, .jmp .indirect, 3⟩, ⟨0x20, .jsr, 3⟩, ⟨0x60, .rts, 1⟩,
   ⟨0x40, .rti, 1⟩]

/-- Loads and stores (30_encoding.md R95). -/
def loadStoreRows : OpcodeTable :=
  [⟨0xA9, .lda .immediate, 2⟩, ⟨0xA5, .lda .zeroPage, 2⟩, ⟨0xB5, .lda .zeroPageX, 2⟩,
   ⟨0xAD, .lda .absolute, 3⟩, ⟨0xBD, .lda .absoluteX, 3⟩, ⟨0xB9, .lda .absoluteY, 3⟩,
   ⟨0xA1, .lda .indirectX, 2⟩, ⟨0xB1, .lda .indirectY, 2⟩] ++
  [⟨0xA2, .ldx .immediate, 2⟩, ⟨0xA6, .ldx .zeroPage, 2⟩, ⟨0xB6, .ldx .zeroPageY, 2⟩,
   ⟨0xAE, .ldx .absolute, 3⟩, ⟨0xBE, .ldx .absoluteY, 3⟩] ++
  [⟨0xA0, .ldy .immediate, 2⟩, ⟨0xA4, .ldy .zeroPage, 2⟩, ⟨0xB4, .ldy .zeroPageX, 2⟩,
   ⟨0xAC, .ldy .absolute, 3⟩, ⟨0xBC, .ldy .absoluteX, 3⟩] ++
  [⟨0x85, .sta .zeroPage, 2⟩, ⟨0x95, .sta .zeroPageX, 2⟩, ⟨0x8D, .sta .absolute, 3⟩,
   ⟨0x9D, .sta .absoluteX, 3⟩, ⟨0x99, .sta .absoluteY, 3⟩, ⟨0x81, .sta .indirectX, 2⟩,
   ⟨0x91, .sta .indirectY, 2⟩] ++
  [⟨0x86, .stx .zeroPage, 2⟩, ⟨0x96, .stx .zeroPageY, 2⟩, ⟨0x8E, .stx .absolute, 3⟩] ++
  [⟨0x84, .sty .zeroPage, 2⟩, ⟨0x94, .sty .zeroPageX, 2⟩, ⟨0x8C, .sty .absolute, 3⟩]

/-- Register transfers (30_encoding.md R95). -/
def transferRows : OpcodeTable :=
  [⟨0xAA, .tax, 1⟩, ⟨0xA8, .tay, 1⟩, ⟨0xBA, .tsx, 1⟩, ⟨0x8A, .txa, 1⟩, ⟨0x98, .tya, 1⟩,
   ⟨0x9A, .txs, 1⟩]

/-- Increment and decrement (30_encoding.md R95). -/
def incDecRows : OpcodeTable :=
  [⟨0xE6, .inc .zeroPage, 2⟩, ⟨0xF6, .inc .zeroPageX, 2⟩, ⟨0xEE, .inc .absolute, 3⟩,
   ⟨0xFE, .inc .absoluteX, 3⟩] ++
  [⟨0xC6, .dec .zeroPage, 2⟩, ⟨0xD6, .dec .zeroPageX, 2⟩, ⟨0xCE, .dec .absolute, 3⟩,
   ⟨0xDE, .dec .absoluteX, 3⟩] ++
  [⟨0xE8, .inx, 1⟩, ⟨0xC8, .iny, 1⟩, ⟨0xCA, .dex, 1⟩, ⟨0x88, .dey, 1⟩]

/-- Logical operations (30_encoding.md R95). -/
def logicalRows : OpcodeTable :=
  [⟨0x29, .and .immediate, 2⟩, ⟨0x25, .and .zeroPage, 2⟩, ⟨0x35, .and .zeroPageX, 2⟩,
   ⟨0x2D, .and .absolute, 3⟩, ⟨0x3D, .and .absoluteX, 3⟩, ⟨0x39, .and .absoluteY, 3⟩,
   ⟨0x21, .and .indirectX, 2⟩, ⟨0x31, .and .indirectY, 2⟩] ++
  [⟨0x49, .eor .immediate, 2⟩, ⟨0x45, .eor .zeroPage, 2⟩, ⟨0x55, .eor .zeroPageX, 2⟩,
   ⟨0x4D, .eor .absolute, 3⟩, ⟨0x5D, .eor .absoluteX, 3⟩, ⟨0x59, .eor .absoluteY, 3⟩,
   ⟨0x41, .eor .indirectX, 2⟩, ⟨0x51, .eor .indirectY, 2⟩] ++
  [⟨0x09, .ora .immediate, 2⟩, ⟨0x05, .ora .zeroPage, 2⟩, ⟨0x15, .ora .zeroPageX, 2⟩,
   ⟨0x0D, .ora .absolute, 3⟩, ⟨0x1D, .ora .absoluteX, 3⟩, ⟨0x19, .ora .absoluteY, 3⟩,
   ⟨0x01, .ora .indirectX, 2⟩, ⟨0x11, .ora .indirectY, 2⟩]

/-- Shifts and BIT (30_encoding.md R95). -/
def shiftRows : OpcodeTable :=
  [⟨0x0A, .asl .noneAddressing, 1⟩, ⟨0x06, .asl .zeroPage, 2⟩, ⟨0x16, .asl .zeroPageX, 2⟩,
   ⟨0x0E, .asl .absolute, 3⟩, ⟨0x1E, .asl .absoluteX, 3⟩] ++
  [⟨0x24, .bit .zeroPage, 2⟩, ⟨0x2C, .bit .absolute, 3⟩] ++
  [⟨0x4A, .lsr .noneAddressing, 1⟩, ⟨0x46, .lsr .zeroPage, 2⟩, ⟨0x56, .lsr .zeroPageX, 2⟩,
   ⟨0x4E, .lsr .absolute, 3⟩, ⟨0x5E, .lsr .absoluteX, 3⟩] ++
  [⟨0x2A, .rol .noneAddressing, 1⟩, ⟨0x26, .rol .zeroPage, 2⟩, ⟨0x36, .rol .zeroPageX, 2⟩,
   ⟨0x2E, .rol .absolute, 3⟩, ⟨0x3E, .rol .absoluteX, 3⟩] ++
  [⟨0x6A, .ror .noneAddressing, 1⟩, ⟨0x66, .ror .zeroPage, 2⟩, ⟨0x76, .ror .zeroPageX, 2⟩,
   ⟨0x6E, .ror .absolute, 3⟩, ⟨0x7E, .ror .absoluteX, 3⟩]

/-- Stack and flag instructions (30_encoding.md R95). -/
def stackFlagRows : OpcodeTable :=
  [⟨0x68, .pla, 1⟩, ⟨0x48, .pha, 1⟩, ⟨0x08, .php, 1⟩, ⟨0x18, .clc, 1⟩, ⟨0xD8, .cld, 1⟩,
   ⟨0x58, .cli, 1⟩, ⟨0xB8, .clv, 1⟩, ⟨0x38, .sec, 1⟩, ⟨0xF8, .sed, 1⟩, ⟨0x78, .sei, 1⟩,
   ⟨0x28, .plp, 1⟩]

/-- Arithmetic and compare (30_encoding.md R95). -/
def arithmeticRows : OpcodeTable :=
  [⟨0x69, .adc .immediate, 2⟩, ⟨0x65, .adc .zeroPage, 2⟩, ⟨0x75, .adc .zeroPageX, 2⟩,
   ⟨0x6D, .adc .absolute, 3⟩, ⟨0x7D, .adc .absoluteX, 3⟩, ⟨0x79, .adc .absoluteY, 3⟩,
   ⟨0x61, .adc .indirectX, 2⟩, ⟨0x71, .adc .indirectY, 2⟩] ++
  [⟨0xE9, .sbc .immediate, 2⟩, ⟨0xE5, .sbc .zeroPage, 2⟩, ⟨0xF5, .sbc .zeroPageX, 2⟩,
   ⟨0xED, .sbc .absolute, 3⟩, ⟨0xFD, .sbc .absoluteX, 3⟩, ⟨0xF9, .sbc .absoluteY, 3⟩,
   ⟨0xE1, .sbc .indirectX, 2⟩, ⟨0xF1, .sbc .indirectY, 2⟩] ++
  [⟨0xC9, .cmp .immediate, 2⟩, ⟨0xC5, .cmp .zeroPage, 2⟩, ⟨0xD5, .cmp .zeroPageX, 2⟩,
   ⟨0xCD, .cmp .absolute, 3⟩, ⟨0xDD, .cmp .absoluteX, 3⟩, ⟨0xD9, .cmp .absoluteY, 3⟩,
   ⟨0xC1, .cmp .indirectX, 2⟩, ⟨0xD1, .cmp .indirectY, 2⟩] ++
  [⟨0xE0, .cpx .immediate, 2⟩, ⟨0xE4, .cpx .zeroPage, 2⟩, ⟨0xEC, .cpx .absolute, 3⟩] ++
  [⟨0xC0, .cpy .immediate, 2⟩, ⟨0xC4, .cpy .zeroPage, 2⟩, ⟨0xCC, .cpy .absolute, 3⟩]

/-- The default `OPCODE_TABLE`: 151 recognized bytes (R95; its content beyond ten bytes is the spec's
decision D1, log 1). -/
def opcodeTable : OpcodeTable :=
  controlRows ++ loadStoreRows ++ transferRows ++ incDecRows ++ logicalRows ++ shiftRows ++
    stackFlagRows ++ arithmeticRows

/-! ### Decoding -/

/-- The table's descriptor for an opcode byte, if it holds one (R91). -/
def lookup (table : OpcodeTable) (op : Byte) : Option Descriptor :=
  table.find? (fun d => d.byte == op)

/-- What the engine dispatches on for an opcode byte. A byte the table does not hold is named by the
`unrecognized` instruction; it has no length of its own (R97) and consumes the one byte fetched
(log 23). -/
def descriptorOf (table : OpcodeTable) (op : Byte) : Descriptor :=
  (lookup table op).getD ⟨op, .unrecognized op, 1⟩

/-- The instruction of an opcode byte under the default table. Total over the 256 values (R98). -/
def decodeOpcode (op : Byte) : Instr := (descriptorOf opcodeTable op).instr

/-- The length of an opcode byte's instruction under the default table (R92). -/
def lengthOf (op : Byte) : Nat := (descriptorOf opcodeTable op).length

/-- Why a list of bytes is no instruction. The machine never meets either: its memory wraps, so a fetch
always finds its bytes (R90, log 24). -/
inductive DecodeError where
  /-- No byte at all. -/
  | empty
  /-- Fewer operand bytes than the opcode's length asks for. -/
  | truncated (op : Byte)
  deriving DecidableEq, Repr

/-- A decoded instruction: its mnemonic and mode, its operand bytes as they stand (R93), and the bytes
after it. -/
structure Decoded where
  instr : Instr
  operands : List Byte
  rest : List Byte
  deriving DecidableEq, Repr

/-- Decode the instruction at the head of a byte list. Total; a refusal has a name. -/
def decode : List Byte → Except DecodeError Decoded
  | [] => .error .empty
  | op :: bytes =>
    let n := lengthOf op - 1
    if bytes.length < n then .error (.truncated op)
    else .ok ⟨decodeOpcode op, bytes.take n, bytes.drop n⟩

/-- The bytes of an instruction given as a number whose bit 0 is the least significant bit of the first
byte (spec/opcode_table.json's numbering): `nbits` bits of `w`, padded with zero bits to the longest
instruction. -/
def tableWordBytes (nbits w : Nat) : List Byte :=
  let v := w % 2 ^ nbits
  (List.range Config.maxInstrLength).map fun k => BitVec.ofNat 8 (v / 2 ^ (8 * k))

/-- The instruction the decoder reads from an opcode-table row's bits. -/
def decodeTableWord (nbits w : Nat) : Option Instr :=
  match decode (tableWordBytes nbits w) with
  | .ok d => some d.instr
  | .error _ => none

/-! ### Encoding -/

/-- Opcodes of an instruction with the eight accumulator modes, in the order of the rules' encoding
lines (R160, R220 to R222, R260 to R262). -/
def accumulatorOpcode (imm zp zpx abs absx absy indx indy : Byte) : Mode → Option Byte
  | .immediate => some imm
  | .zeroPage => some zp
  | .zeroPageX => some zpx
  | .absolute => some abs
  | .absoluteX => some absx
  | .absoluteY => some absy
  | .indirectX => some indx
  | .indirectY => some indy
  | .zeroPageY | .noneAddressing => none

/-- Opcodes of a read-modify-write instruction (R200, R201, R223, R225 to R227). `acc` is its accumulator
form, if it has one. -/
def modifyOpcode (acc : Option Byte) (zp zpx abs absx : Byte) : Mode → Option Byte
  | .noneAddressing => acc
  | .zeroPage => some zp
  | .zeroPageX => some zpx
  | .absolute => some abs
  | .absoluteX => some absx
  | .immediate | .zeroPageY | .absoluteY | .indirectX | .indirectY => none

/-- Opcodes of CPX and CPY (R263, R264). -/
def compareIndexOpcode (imm zp abs : Byte) : Mode → Option Byte
  | .immediate => some imm
  | .zeroPage => some zp
  | .absolute => some abs
  | _ => none

/-- The opcode byte of an instruction, from the encoding line of its own rule; `none` for a mode its
rule does not list, and for an `unrecognized` byte that is recognized. -/
def opcodeOf : Instr → Option Byte
  | .brk => some 0x00
  | .nop => some 0xEA
  | .bcc => some 0x90
  | .bcs => some 0xB0
  | .beq => some 0xF0
  | .bmi => some 0x30
  | .bne => some 0xD0
  | .bpl => some 0x10
  | .bvc => some 0x50
  | .bvs => some 0x70
  | .jmp .absolute => some 0x4C
  | .jmp .indirect => some 0x6C
  | .jsr => some 0x20
  | .rts => some 0x60
  | .rti => some 0x40
  | .lda m => accumulatorOpcode 0xA9 0xA5 0xB5 0xAD 0xBD 0xB9 0xA1 0xB1 m
  | .ldx .immediate => some 0xA2
  | .ldx .zeroPage => some 0xA6
  | .ldx .zeroPageY => some 0xB6
  | .ldx .absolute => some 0xAE
  | .ldx .absoluteY => some 0xBE
  | .ldx _ => none
  | .ldy .immediate => some 0xA0
  | .ldy .zeroPage => some 0xA4
  | .ldy .zeroPageX => some 0xB4
  | .ldy .absolute => some 0xAC
  | .ldy .absoluteX => some 0xBC
  | .ldy _ => none
  | .sta .zeroPage => some 0x85
  | .sta .zeroPageX => some 0x95
  | .sta .absolute => some 0x8D
  | .sta .absoluteX => some 0x9D
  | .sta .absoluteY => some 0x99
  | .sta .indirectX => some 0x81
  | .sta .indirectY => some 0x91
  | .sta _ => none
  | .stx .zeroPage => some 0x86
  | .stx .zeroPageY => some 0x96
  | .stx .absolute => some 0x8E
  | .stx _ => none
  | .sty .zeroPage => some 0x84
  | .sty .zeroPageX => some 0x94
  | .sty .absolute => some 0x8C
  | .sty _ => none
  | .tax => some 0xAA
  | .tay => some 0xA8
  | .tsx => some 0xBA
  | .txa => some 0x8A
  | .tya => some 0x98
  | .txs => some 0x9A
  | .inc m => modifyOpcode none 0xE6 0xF6 0xEE 0xFE m
  | .dec m => modifyOpcode none 0xC6 0xD6 0xCE 0xDE m
  | .inx => some 0xE8
  | .iny => some 0xC8
  | .dex => some 0xCA
  | .dey => some 0x88
  | .and m => accumulatorOpcode 0x29 0x25 0x35 0x2D 0x3D 0x39 0x21 0x31 m
  | .eor m => accumulatorOpcode 0x49 0x45 0x55 0x4D 0x5D 0x59 0x41 0x51 m
  | .ora m => accumulatorOpcode 0x09 0x05 0x15 0x0D 0x1D 0x19 0x01 0x11 m
  | .asl m => modifyOpcode (some 0x0A) 0x06 0x16 0x0E 0x1E m
  | .bit .zeroPage => some 0x24
  | .bit .absolute => some 0x2C
  | .bit _ => none
  | .lsr m => modifyOpcode (some 0x4A) 0x46 0x56 0x4E 0x5E m
  | .rol m => modifyOpcode (some 0x2A) 0x26 0x36 0x2E 0x3E m
  | .ror m => modifyOpcode (some 0x6A) 0x66 0x76 0x6E 0x7E m
  | .pla => some 0x68
  | .pha => some 0x48
  | .php => some 0x08
  | .clc => some 0x18
  | .cld => some 0xD8
  | .cli => some 0x58
  | .clv => some 0xB8
  | .sec => some 0x38
  | .sed => some 0xF8
  | .sei => some 0x78
  | .plp => some 0x28
  | .adc m => accumulatorOpcode 0x69 0x65 0x75 0x6D 0x7D 0x79 0x61 0x71 m
  | .sbc m => accumulatorOpcode 0xE9 0xE5 0xF5 0xED 0xFD 0xF9 0xE1 0xF1 m
  | .cmp m => accumulatorOpcode 0xC9 0xC5 0xD5 0xCD 0xDD 0xD9 0xC1 0xD1 m
  | .cpx m => compareIndexOpcode 0xE0 0xE4 0xEC m
  | .cpy m => compareIndexOpcode 0xC0 0xC4 0xCC m
  | .unrecognized op => if unrecognizedBytes.contains op then some op else none

/-- How many operand bytes a mode has (R92, R93). -/
def Mode.operandCount : Mode → Nat
  | .noneAddressing => 0
  | .immediate | .zeroPage | .zeroPageX | .zeroPageY | .indirectX | .indirectY => 1
  | .absolute | .absoluteX | .absoluteY => 2

/-- How many operand bytes an instruction has: its mode's, but for the branches (1) and JMP and JSR (2),
which carry the tag NoneAddressing (R92). -/
def Instr.operandCount : Instr → Nat
  | .bcc | .bcs | .beq | .bmi | .bne | .bpl | .bvc | .bvs => 1
  | .jmp _ | .jsr => 2
  | i => i.mode.operandCount

/-- The bytes of an instruction with the given operand bytes: the opcode, then the operand bytes as they
stand, the low byte of an address first (R90, R93). `none` where the term is not well-formed or the
number of operand bytes is wrong. -/
def encode (i : Instr) (operands : List Byte) : Option (List Byte) :=
  if i.wf && operands.length == i.operandCount then
    (opcodeOf i).map (fun op => op :: operands)
  else none

end Sys2Proof
end

