-- ==== Sys2Proof/Machine/Flags.lean ====
section
/-! DEFINITION. The status register and every flag computation of the spec: SetZN (10_state.md R31), the
clear and set of one flag (45_stack_flags.md), the carry of a left shift (44_logical_shift.md R223), and
the byte layout (10_state.md R24). -/

namespace Sys2Proof.Machine

/-- The status register `P` as its eight named flags (10_state.md R24; R355 allows eight booleans). -/
structure Status where
  /-- Carry, bit 0 (R25). -/
  c : Bool
  /-- Zero, bit 1 (R26). -/
  z : Bool
  /-- InterruptDisable, bit 2 (R27). -/
  i : Bool
  /-- Decimal, bit 3 (R28). -/
  d : Bool
  /-- Break, bit 4 (R29). -/
  b : Bool
  /-- Break2, bit 5 (R30). -/
  b2 : Bool
  /-- Overflow, bit 6 (R32). -/
  v : Bool
  /-- Negative, bit 7 (R33). -/
  n : Bool
  deriving DecidableEq, Repr

/-- `P` of a byte in the layout of R24 (decision D2, log 2). -/
def Status.ofByte (p : Byte) : Status where
  c := p.getLsbD 0
  z := p.getLsbD 1
  i := p.getLsbD 2
  d := p.getLsbD 3
  b := p.getLsbD 4
  b2 := p.getLsbD 5
  v := p.getLsbD 6
  n := p.getLsbD 7

/-- `P` shown as a byte, in the layout of R24 (decision D2, log 2); only the host sees it (R34, R355). -/
def Status.toByte (p : Status) : Byte :=
  BitVec.ofNat 8 (p.c.toNat + 2 * p.z.toNat + 4 * p.i.toNat + 8 * p.d.toNat + 16 * p.b.toNat +
    32 * p.b2.toNat + 64 * p.v.toNat + 128 * p.n.toNat)

/-- The four flags an instruction of the core can name to clear or set (45_stack_flags.md R243 to
R249). -/
inductive Flag where
  | carry
  | decimal
  | interruptDisable
  | overflow
  deriving DecidableEq, Repr

/-- Write one named flag and no other (45_stack_flags.md section 2; a write, never a toggle: C4, D26,
log 18). -/
def Status.writeFlag (p : Status) : Flag → Bool → Status
  | .carry, value => { p with c := value }
  | .decimal, value => { p with d := value }
  | .interruptDisable, value => { p with i := value }
  | .overflow, value => { p with v := value }

/-- `SetZN(v)`: Z and N recomputed from a byte, no other flag written (10_state.md R31). -/
def Status.setZN (p : Status) (v : Byte) : Status :=
  { p with z := v == 0x00#8, n := v.getLsbD 7 }

/-- The bit a left shift moves out, which ASL puts in Carry (44_logical_shift.md R223). -/
def shiftOut (v : Byte) : Bool := v.getLsbD 7

/-- `(v << 1) mod 256` (44_logical_shift.md R223). -/
def shiftLeft (v : Byte) : Byte := v <<< 1

end Sys2Proof.Machine
end

