-- ==== Sys2Proof/Machine/Params.lean ====
section
/-! DEFINITION. The parameters of 00_scope.md R5 whose values are the spec's own decisions: the source
calls each "fixed" or "constant" and gives no value. They stand here, and not in Config.lean, because a
repair may mend a definition of this folder. -/

namespace Sys2Proof.Machine.Params

/-- `STACK_BASE` (D4, log 4). -/
def stackBase : Addr := 0x0100#16

/-- `SP_RESET` (D5, log 5). -/
def spReset : Byte := 0xFD#8

/-- `RESET_VECTOR`, the address of its low byte (D6, log 6). -/
def resetVector : Addr := 0xFFFC#16

/-- `LOAD_ORIGIN` (D7, log 7). -/
def loadOrigin : Addr := 0x8000#16

/-- `STATUS_RESET`: InterruptDisable and Negative set (D2, D3, logs 2 and 3). -/
def statusReset : Byte := 0x84#8

/-- `PLA_SETS_ZN` (D8, log 8). -/
def plaSetsZN : Bool := true

/-- What a byte holds at creation (10_state.md R41, D9, log 9). -/
def memoryAtCreation : Byte := 0x00#8

end Sys2Proof.Machine.Params
end

