-- ==== Sys2Proof/Machine/Memory.lean ====
section
/-! DEFINITION. Memory `M`: 65536 bytes (10_state.md R36), as a list of address and byte pairs in one
canonical form, with the byte and word helpers every access is built from. -/

namespace Sys2Proof.Machine

/-- `zext_16(b)` (00_scope.md R7). -/
def zext16 (b : Byte) : Addr := b.setWidth 16

/-- `(hi << 8) | lo`, the word of a low and a high byte (00_scope.md R6). -/
def wordOf (lo hi : Byte) : Addr := (hi.setWidth 16 <<< 8) ||| lo.setWidth 16

/-- `v[7:0]` of a word. -/
def lowByte (v : Addr) : Byte := v.extractLsb' 0 8

/-- `v[15:8]` of a word. -/
def highByte (v : Addr) : Byte := v.extractLsb' 8 8

/-- The listed bytes of memory. An unlisted address holds `Params.memoryAtCreation`. -/
abbrev Memory := List Host.Cell

/-- The byte listed first for an address, or what an unlisted address holds. -/
def Memory.find : Memory → Nat → Byte
  | [], _ => Params.memoryAtCreation
  | (k, v) :: rest, n => if k = n then v else Memory.find rest n

/-- Drop whatever is listed for an address. -/
def Memory.erase : Memory → Nat → Memory
  | [], _ => []
  | (k, v) :: rest, n => if k = n then Memory.erase rest n else (k, v) :: Memory.erase rest n

/-- List a byte at its place in the order of addresses. -/
def Memory.insert : Memory → Nat → Byte → Memory
  | [], n, v => [(n, v)]
  | (k, w) :: rest, n, v =>
    if n < k then (n, v) :: (k, w) :: rest else (k, w) :: Memory.insert rest n v

/-- `M[addr]` (20_memory.md R51). -/
def Memory.read (m : Memory) (addr : Addr) : Byte := m.find addr.toNat

/-- `M[addr] <- v` (20_memory.md R52). Writing what an unlisted address holds removes the entry. -/
def Memory.write (m : Memory) (addr : Addr) (v : Byte) : Memory :=
  if v = Params.memoryAtCreation then m.erase addr.toNat
  else (m.erase addr.toNat).insert addr.toNat v

/-- The little-endian word at an address, the high byte's address wrapping (20_memory.md R53). -/
def Memory.read16 (m : Memory) (addr : Addr) : Addr := wordOf (m.read addr) (m.read (addr + 1#16))

/-- The canonical form: addresses strictly rising, within the address space, and no entry equal to what
an unlisted address holds. -/
abbrev Memory.wf (m : Memory) : Prop :=
  m.Pairwise (fun c d => c.1 < d.1) ∧
    ∀ c ∈ m, c.1 < Config.memSize ∧ c.2 ≠ Params.memoryAtCreation

end Sys2Proof.Machine
end

