-- ==== Sys2Proof/Machine/State.lean ====
section
/-! DEFINITION. The state of the core as plain data (10_state.md), the reasons a step can stop, and the
states at creation and after reset. -/

namespace Sys2Proof.Machine

/-- The three fault kinds of the core (60_exceptions.md R300 to R302). -/
inductive FaultKind where
  /-- The fetched byte has no entry in the opcode table (R300). -/
  | unrecognizedOpcode
  /-- A recognized mnemonic with no handler (R301). -/
  | unimplementedOpcode
  /-- A handler that needs an address was given NoneAddressing (R302). -/
  | unsupportedAddressingMode
  deriving DecidableEq, Repr

/-- What the fault latch records: kind, fetched byte, and that byte's address (10_state.md R38,
60_exceptions.md R303). -/
structure FaultRecord where
  kind : FaultKind
  opcode : Byte
  addr : Addr
  deriving DecidableEq, Repr

/-- The three outcomes of a step (40_engine_control.md R128). -/
inductive StepOutcome where
  | continued
  | halted
  | faulted
  deriving DecidableEq, Repr

/-- Everything the spec gives the machine (10_state.md), and one field of the model's own, `halted`. -/
structure State where
  /-- The accumulator (R20). -/
  a : Byte
  /-- Index register X (R20). -/
  x : Byte
  /-- Index register Y (R20). -/
  y : Byte
  /-- The stack pointer, an offset into the stack page (R23). -/
  sp : Byte
  /-- The program counter (R22). -/
  pc : Addr
  /-- The status register (R24). -/
  p : Status
  /-- Memory (R36). -/
  mem : Memory
  /-- The fault latch F (R38). -/
  fault : Option FaultRecord
  /-- The MODEL's own field: the last step was the halt instruction, the outcome Halted that step()
  returns to the host (40_engine_control.md R128). The next step's fetch clears it: a halt is not latched
  (D14, log 13). -/
  halted : Bool
  deriving DecidableEq, Repr

/-- The outcome of the step that left this state (40_engine_control.md R128). -/
def State.outcome (s : State) : StepOutcome :=
  if s.fault.isSome then .faulted else if s.halted then .halted else .continued

/-- Why the machine takes no step. -/
inductive Fault where
  /-- Raised by `step` alone, from a state whose fault latch is set: "While F is not none, Step() has no
  step" (60_exceptions.md R312). Safe: the model stops where a host might go on (D13, log 11). -/
  | latched (r : FaultRecord)
  deriving DecidableEq, Repr

/-- Why the model gives no meaning. -/
inductive Refusal where
  /-- Raised by an arm of `exec` whose instruction has no meaning yet; no arm is left that does. Safe. -/
  | notModelled (mnemonic : String)
  deriving DecidableEq, Repr

/-- What a meaning and a step answer. -/
abbrev Result := Host.Outcome State Fault Refusal

/-- The parameter `INIT_REGS`: registers and status at creation, which the spec leaves OPEN
(10_state.md R41, D10, log 10). -/
structure InitRegs where
  a : Byte
  x : Byte
  y : Byte
  sp : Byte
  pc : Addr
  p : Status
  deriving DecidableEq, Repr

/-- The state at creation, for any `INIT_REGS`: memory as created, no fault (10_state.md R41,
70_reset_and_hazards.md R340). -/
def State.create (r : InitRegs) : State where
  a := r.a
  x := r.x
  y := r.y
  sp := r.sp
  pc := r.pc
  p := r.p
  mem := []
  fault := none
  halted := false

/-- The machine right after reset, with memory as at creation (10_state.md R40): PC is the word the
reset vector holds in that memory. -/
def State.reset : State where
  a := 0x00#8
  x := 0x00#8
  y := 0x00#8
  sp := Params.spReset
  pc := Memory.read16 [] Params.resetVector
  p := Status.ofByte Params.statusReset
  mem := []
  fault := none
  halted := false

end Sys2Proof.Machine
end

