-- ==== Sys2Proof/Machine/Ops.lean ====
section
/-! DEFINITION. The named operations over memory, the stack window and the registers, and the shared
operations that end a step: raising a fault, halting, and reset, the only way out of a fault. A
handler runs in the state the fetch left, so `PC` there is the address of the first operand byte, one
past the opcode (40_engine_control.md R121). -/

namespace Sys2Proof.Machine

/-! ### Memory (20_memory.md section 1) -/

/-- `MemRead(addr, 1)` (R51). -/
def State.memRead (s : State) (addr : Addr) : Byte := s.mem.read addr

/-- `MemRead(addr, 2)` (R53). -/
def State.memRead16 (s : State) (addr : Addr) : Addr := s.mem.read16 addr

/-- `MemWrite(addr, 1, v)` (R52). -/
def State.memWrite (s : State) (addr : Addr) (v : Byte) : State :=
  { s with mem := s.mem.write addr v }

/-- `MemWrite(addr, 2, v)`: low byte first, then the high byte, its address wrapping (R54). -/
def State.memWrite16 (s : State) (addr : Addr) (v : Addr) : State :=
  (s.memWrite addr (lowByte v)).memWrite (addr + 1#16) (highByte v)

/-! ### Registers (10_state.md sections 1 and 3) -/

/-- The 8-bit registers an instruction can name. -/
inductive Reg where
  | a
  | x
  | y
  | sp
  deriving DecidableEq, Repr

/-- The value of a register (00_scope.md R8). -/
def State.reg (s : State) : Reg → Byte
  | .a => s.a
  | .x => s.x
  | .y => s.y
  | .sp => s.sp

/-- `R <- v` (00_scope.md R8). -/
def State.setReg (s : State) : Reg → Byte → State
  | .a, v => { s with a := v }
  | .x, v => { s with x := v }
  | .y, v => { s with y := v }
  | .sp, v => { s with sp := v }

/-- `SetZN(v)` on the state (10_state.md R31). -/
def State.setZN (s : State) (v : Byte) : State := { s with p := s.p.setZN v }

/-- Write one flag (45_stack_flags.md section 2). -/
def State.writeFlag (s : State) (f : Flag) (value : Bool) : State :=
  { s with p := s.p.writeFlag f value }

/-! ### The stack window (20_memory.md section 3) -/

/-- The address a stack pointer names (R23, R60, D24). -/
def stackAddr (sp : Byte) : Addr := Params.stackBase + zext16 sp

/-- `Push(v)` (R60). -/
def State.push (s : State) (v : Byte) : State :=
  let s1 := s.memWrite (stackAddr s.sp) v
  { s1 with sp := s1.sp - 1#8 }

/-- `Pop()` (R61): the byte popped and the state after. -/
def State.pop (s : State) : Byte × State :=
  let s1 := { s with sp := s.sp + 1#8 }
  (s1.memRead (stackAddr s1.sp), s1)

/-- `Push16(v)`: high byte first (R62). -/
def State.push16 (s : State) (v : Addr) : State := (s.push (highByte v)).push (lowByte v)

/-- `Pop16()`: low byte first (R63). -/
def State.pop16 (s : State) : Addr × State :=
  let lo := s.pop
  let hi := lo.2.pop
  (wordOf lo.1 hi.1, hi.2)

/-! ### Ends of a step -/

/-- `raise kind(op, a)`: fault entry (60_exceptions.md R310). The latch records the kind, the fetched byte
and its address; PC keeps the value the fetch gave it, and nothing else changes. `a` is one below PC,
and `op` is the byte there: a handler raises before its first write (R129), so memory still holds the
byte that was fetched (DEDUCED, log 12). -/
def State.raise (s : State) (kind : FaultKind) : State :=
  let opcodeAddr := s.pc - 1#16
  { s with fault := some ⟨kind, s.memRead opcodeAddr, opcodeAddr⟩ }

/-- `halt`: the step's outcome is Halted, and nothing else changes (40_engine_control.md R126). -/
def State.halt (s : State) : State := { s with halted := true }

/-- `reset()` (70_reset_and_hazards.md R341): the only operation that clears the fault latch, since there
is no return from a fault (60_exceptions.md R312). It reads the vector and writes no memory. -/
def State.doReset (s : State) : State where
  a := 0x00#8
  x := 0x00#8
  y := 0x00#8
  sp := Params.spReset
  pc := s.memRead16 Params.resetVector
  p := Status.ofByte Params.statusReset
  mem := s.mem
  fault := none
  halted := false

end Sys2Proof.Machine
end

