-- ==== Sys2Proof/Machine/Operands.lean ====
section
/-! DEFINITION. The addressing-mode resolver (20_memory.md section 4) and what every handler that needs
an address does with it. -/

namespace Sys2Proof.Machine

/-- The word at a zero-page pointer: the high byte's address wraps within page 0 (20_memory.md R78,
R79). -/
def State.zeroPageWord (s : State) (ptr : Byte) : Addr :=
  wordOf (s.memRead (zext16 ptr)) (s.memRead (zext16 (ptr + 1#8)))

/-- `EA(mode)` (20_memory.md R70 to R80), in the state the fetch left: PC names the first operand byte.
`none` for NoneAddressing, whose resolution fails (R80). It writes nothing. -/
def ea (m : Mode) (s : State) : Option Addr :=
  match m with
  | .immediate => some s.pc
  | .zeroPage => some (zext16 (s.memRead s.pc))
  | .zeroPageX => some (zext16 (s.memRead s.pc + s.x))
  | .zeroPageY => some (zext16 (s.memRead s.pc + s.y))
  | .absolute => some (s.memRead16 s.pc)
  | .absoluteX => some (s.memRead16 s.pc + zext16 s.x)
  | .absoluteY => some (s.memRead16 s.pc + zext16 s.y)
  | .indirectX => some (s.zeroPageWord (s.memRead s.pc + s.x))
  | .indirectY => some (s.zeroPageWord (s.memRead s.pc) + zext16 s.y)
  | .noneAddressing => none

/-- Run a handler's body on its effective address. A handler that needs an address and finds
NoneAddressing faults before any access (20_memory.md R80, 60_exceptions.md R302). -/
def withAddress (m : Mode) (s : State) (body : Addr → State) : Result :=
  match ea m s with
  | some e => .next (body e)
  | none => .next (s.raise .unsupportedAddressingMode)

/-! ### Handler bodies shared by a family -/

/-- Read a byte, write a register, derive Z and N (41_load_store.md, loads). -/
def loadReg (r : Reg) (m : Mode) (s : State) : Result :=
  withAddress m s fun e => (s.setReg r (s.memRead e)).setZN (s.memRead e)

/-- Write a register's byte to memory; no flag (41_load_store.md, stores). -/
def storeReg (r : Reg) (m : Mode) (s : State) : Result :=
  withAddress m s fun e => s.memWrite e (s.reg r)

/-- Write a register and derive Z and N from what was written (42_transfer.md, and the register forms of
43_inc_dec.md). -/
def writeRegZN (r : Reg) (v : Byte) (s : State) : Result :=
  .next ((s.setReg r v).setZN v)

/-- Read a byte, write a function of it back to the same address, derive Z and N from the written byte
(43_inc_dec.md R200, R201; C3, log 19). -/
def modifyMem (f : Byte → Byte) (m : Mode) (s : State) : Result :=
  withAddress m s fun e => (s.memWrite e (f (s.memRead e))).setZN (f (s.memRead e))

/-- Combine the accumulator with a byte, write it back, derive Z and N (44_logical_shift.md section 1). -/
def combineA (f : Byte → Byte → Byte) (m : Mode) (s : State) : Result :=
  withAddress m s fun e => (s.setReg .a (f s.a (s.memRead e))).setZN (f s.a (s.memRead e))

/-- An instruction with no handler (60_exceptions.md R301): the fault is raised at dispatch, before any
operand byte is read (40_engine_control.md R123, D12, log 17). -/
def raiseUnimplemented (s : State) : Result := .next (s.raise .unimplementedOpcode)

end Sys2Proof.Machine
end

