-- ==== Sys2Proof/Machine/Arithmetic.lean ====
section
/-! DEFINITION. Arithmetic with carry and compares, all unimplemented in this core (46_arith_compare.md).
Each takes the fault UnimplementedOpcode; the 6502's own results "must not be modelled". -/

namespace Sys2Proof.Machine

/-- ADC, unimplemented (R260). -/
def execAdc (_m : Mode) (s : State) : Result := raiseUnimplemented s

/-- SBC, unimplemented (R261). -/
def execSbc (_m : Mode) (s : State) : Result := raiseUnimplemented s

/-- CMP, unimplemented (R262). -/
def execCmp (_m : Mode) (s : State) : Result := raiseUnimplemented s

/-- CPX, unimplemented (R263). -/
def execCpx (_m : Mode) (s : State) : Result := raiseUnimplemented s

/-- CPY, unimplemented (R264). -/
def execCpy (_m : Mode) (s : State) : Result := raiseUnimplemented s

end Sys2Proof.Machine
end

