-- ==== Sys2Proof/Machine/Control.lean ====
section
/-! DEFINITION. Halt, NOP, the unimplemented control transfers (40_engine_control.md sections 2 and 3),
and the bytes outside the opcode table (60_exceptions.md R300). -/

namespace Sys2Proof.Machine

/-- BRK, the halt instruction: no interrupt, no push, no flag (R126, D22, log 25). -/
def execBrk (s : State) : Result := .next s.halt

/-- NOP (R127). -/
def execNop (s : State) : Result := .next s

/-- BCC, unimplemented (R130). -/
def execBcc (s : State) : Result := raiseUnimplemented s

/-- BCS, unimplemented (R131). -/
def execBcs (s : State) : Result := raiseUnimplemented s

/-- BEQ, unimplemented (R132). -/
def execBeq (s : State) : Result := raiseUnimplemented s

/-- BMI, unimplemented (R133). -/
def execBmi (s : State) : Result := raiseUnimplemented s

/-- BNE, unimplemented (R134). -/
def execBne (s : State) : Result := raiseUnimplemented s

/-- BPL, unimplemented (R135). -/
def execBpl (s : State) : Result := raiseUnimplemented s

/-- BVC, unimplemented (R136). -/
def execBvc (s : State) : Result := raiseUnimplemented s

/-- BVS, unimplemented (R137). -/
def execBvs (s : State) : Result := raiseUnimplemented s

/-- JMP, unimplemented in both forms (R138). -/
def execJmp (_form : JmpForm) (s : State) : Result := raiseUnimplemented s

/-- JSR, unimplemented (R139). -/
def execJsr (s : State) : Result := raiseUnimplemented s

/-- RTS, unimplemented (R140). -/
def execRts (s : State) : Result := raiseUnimplemented s

/-- RTI, unimplemented (R141). -/
def execRti (s : State) : Result := raiseUnimplemented s

/-- A byte the opcode table does not hold (R300, 40_engine_control.md R122). The byte recorded is the one
fetched, which memory still holds. -/
def execUnrecognized (_op : Byte) (s : State) : Result := .next (s.raise .unrecognizedOpcode)

end Sys2Proof.Machine
end

