-- ==== Sys2Proof/Machine/IncDec.lean ====
section
/-! DEFINITION. Increment and decrement (43_inc_dec.md). -/

namespace Sys2Proof.Machine

/-- INC (R200). -/
def execInc (m : Mode) (s : State) : Result := modifyMem (· + 1#8) m s

/-- DEC (R201). -/
def execDec (m : Mode) (s : State) : Result := modifyMem (· - 1#8) m s

/-- INX (R202). -/
def execInx (s : State) : Result := writeRegZN .x (s.x + 1#8) s

/-- INY (R203). -/
def execIny (s : State) : Result := writeRegZN .y (s.y + 1#8) s

/-- DEX (R204). -/
def execDex (s : State) : Result := writeRegZN .x (s.x - 1#8) s

/-- DEY (R205). -/
def execDey (s : State) : Result := writeRegZN .y (s.y - 1#8) s

end Sys2Proof.Machine
end

