-- ==== Sys2Proof/Machine/LoadStore.lean ====
section
/-! DEFINITION. Loads and stores (41_load_store.md). -/

namespace Sys2Proof.Machine

/-- LDA (R160). -/
def execLda (m : Mode) (s : State) : Result := loadReg .a m s

/-- LDX (R161). -/
def execLdx (m : Mode) (s : State) : Result := loadReg .x m s

/-- LDY (R162). -/
def execLdy (m : Mode) (s : State) : Result := loadReg .y m s

/-- STA (R163). -/
def execSta (m : Mode) (s : State) : Result := storeReg .a m s

/-- STX (R164). -/
def execStx (m : Mode) (s : State) : Result := storeReg .x m s

/-- STY (R165). -/
def execSty (m : Mode) (s : State) : Result := storeReg .y m s

end Sys2Proof.Machine
end

