-- ==== Sys2Proof/Machine/Logical.lean ====
section
/-! DEFINITION. Logical operations and shifts (44_logical_shift.md). -/

namespace Sys2Proof.Machine

/-- AND (R220). -/
def execAnd (m : Mode) (s : State) : Result := combineA (· &&& ·) m s

/-- EOR (R221). -/
def execEor (m : Mode) (s : State) : Result := combineA (· ^^^ ·) m s

/-- ORA (R222). -/
def execOra (m : Mode) (s : State) : Result := combineA (· ||| ·) m s

/-- ASL (R223): the accumulator form takes NoneAddressing, every other mode shifts its memory byte. -/
def execAsl (m : Mode) (s : State) : Result :=
  match m with
  | .noneAddressing =>
    .next (((s.writeFlag .carry (shiftOut s.a)).setReg .a (shiftLeft s.a)).setZN (shiftLeft s.a))
  | m =>
    withAddress m s fun e =>
      let v := s.memRead e
      ((s.writeFlag .carry (shiftOut v)).memWrite e (shiftLeft v)).setZN (shiftLeft v)

/-- BIT, unimplemented (R224). -/
def execBit (_m : Mode) (s : State) : Result := raiseUnimplemented s

/-- LSR, unimplemented (R225). -/
def execLsr (_m : Mode) (s : State) : Result := raiseUnimplemented s

/-- ROL, unimplemented (R226). -/
def execRol (_m : Mode) (s : State) : Result := raiseUnimplemented s

/-- ROR, unimplemented (R227). -/
def execRor (_m : Mode) (s : State) : Result := raiseUnimplemented s

end Sys2Proof.Machine
end

