-- ==== Sys2Proof/Machine/StackFlags.lean ====
section
/-! DEFINITION. Stack and flag instructions (45_stack_flags.md). -/

namespace Sys2Proof.Machine

/-- PLA for either value of the parameter `PLA_SETS_ZN` (R240, D8, log 8). -/
def plaWith (setsZN : Bool) (s : State) : State :=
  let popped := s.pop
  let s1 := popped.2.setReg .a popped.1
  if setsZN then s1.setZN popped.1 else s1

/-- PLA (R240). -/
def execPla (s : State) : Result := .next (plaWith Params.plaSetsZN s)

/-- PHA, unimplemented (R241). -/
def execPha (s : State) : Result := raiseUnimplemented s

/-- PHP, unimplemented (R242). -/
def execPhp (s : State) : Result := raiseUnimplemented s

/-- PLP, unimplemented (R250). -/
def execPlp (s : State) : Result := raiseUnimplemented s

/-- CLC (R243). -/
def execClc (s : State) : Result := .next (s.writeFlag .carry false)

/-- CLD (R244). -/
def execCld (s : State) : Result := .next (s.writeFlag .decimal false)

/-- CLI (R245). -/
def execCli (s : State) : Result := .next (s.writeFlag .interruptDisable false)

/-- CLV (R246). -/
def execClv (s : State) : Result := .next (s.writeFlag .overflow false)

/-- SEC (R247). -/
def execSec (s : State) : Result := .next (s.writeFlag .carry true)

/-- SED (R248). -/
def execSed (s : State) : Result := .next (s.writeFlag .decimal true)

/-- SEI (R249). -/
def execSei (s : State) : Result := .next (s.writeFlag .interruptDisable true)

end Sys2Proof.Machine
end

