-- ==== Sys2Proof/Machine/Transfer.lean ====
section
/-! DEFINITION. Register transfers (42_transfer.md). -/

namespace Sys2Proof.Machine

/-- TAX (R180). -/
def execTax (s : State) : Result := writeRegZN .x s.a s

/-- TAY (R181). -/
def execTay (s : State) : Result := writeRegZN .y s.a s

/-- TSX (R182). -/
def execTsx (s : State) : Result := writeRegZN .x s.sp s

/-- TXA (R183). -/
def execTxa (s : State) : Result := writeRegZN .a s.x s

/-- TYA (R184). -/
def execTya (s : State) : Result := writeRegZN .a s.y s

/-- TXS: sets no flags (R185). -/
def execTxs (s : State) : Result := .next (s.setReg .sp s.x)

end Sys2Proof.Machine
end

