-- ==== Sys2Proof/Machine/Engine.lean ====
section
/-! DEFINITION. The execution engine around the handlers (40_engine_control.md section 1): fetch, decode,
dispatch, advance, for any opcode table; and how an instruction's bytes are laid where the next fetch
reads them. -/

namespace Sys2Proof.Machine

/-- The engine's fetch: PC moves past the opcode byte, whose value the caller reads at the old PC
(R121). The outcome of the step before is over (log 13). -/
def State.fetched (s : State) : State := { s with pc := s.pc + 1#16, halted := false }

/-- The engine's advance past the operand bytes (R124). -/
def State.advance (s : State) (length : Nat) : State :=
  { s with pc := s.pc + BitVec.ofNat 16 (length - 1) }

/-- What the engine does when a handler returns: it advances PC, unless the instruction halted or faulted
(R120, R124; C5). -/
def finish (length : Nat) : Result → Result
  | .next t =>
    match t.outcome with
    | .continued => .next (t.advance length)
    | .halted | .faulted => .next t
  | .fault r => .fault r
  | .refused r => .refused r

/-- One step under an opcode table (R120), which is a parameter of the machine (10_state.md R42, log 29):
no step while the fault latch is set (60_exceptions.md R312); else fetch, look the byte up, run its
handler, advance. -/
def stepWith (table : OpcodeTable) (s : State) : Result :=
  match s.fault with
  | some r => .fault (.latched r)
  | none =>
    let d := descriptorOf table (s.memRead s.pc)
    finish d.length (exec d.instr s.fetched)

/-- Store bytes at an address and the addresses after it, wrapping at 16 bits. -/
def State.writeBytes (s : State) (addr : Addr) : List Byte → State
  | [] => s
  | v :: rest => (s.memWrite addr v).writeBytes (addr + 1#16) rest

/-- The bytes of an opcode-table row's bits stored at PC, with no fault latched, so that the next step
fetches them (log 20). -/
def placeAtPc (s : State) (nbits w : Nat) : State :=
  { s.writeBytes s.pc (tableWordBytes nbits w) with fault := none }

end Sys2Proof.Machine
end

