-- ==== Sys2Proof/Machine/Step.lean ====
section
/-! DEFINITION. The machine's step: the engine's, under the default opcode table. -/

namespace Sys2Proof.Machine

/-- `Step()` (40_engine_control.md R120) under the default `OPCODE_TABLE`. -/
def step (s : State) : Host.Outcome State Fault Refusal := stepWith opcodeTable s

/-- The state with an instruction's bytes where the next step fetches. -/
def State.withFetchWord (s : State) (nbits w : Nat) : State := placeAtPc s nbits w

end Sys2Proof.Machine
end

