-- ==== Sys2Proof/Machine/HostInterface.lean ====
section
/-! DEFINITION. What the host can do to the core between steps (70_reset_and_hazards.md): create, load,
reset, step, run, load_and_run, peek, poke, and read the registers. Creation is `State.create`, reset is
`State.doReset`. -/

namespace Sys2Proof.Machine

/-! ### Load (R343, R344) -/

/-- What `load` returns to the host. `loadOverflow` is a host-level error and sets no fault (R344). -/
inductive LoadReply where
  | ok
  | loadOverflow
  deriving DecidableEq, Repr

/-- `load(program)` (R343): the bytes at the load origin, then the origin at the reset vector; a program
that would pass the top of memory is refused with nothing written (R344, D15, log 14). -/
def hostLoad (program : List Byte) (s : State) : State × LoadReply :=
  if Params.loadOrigin.toNat + program.length > Config.memSize then (s, .loadOverflow)
  else ((s.writeBytes Params.loadOrigin program).memWrite16 Params.resetVector Params.loadOrigin, .ok)

/-! ### Run (R125, R346) -/

/-- How far a run got within a number of steps. -/
inductive RunResult where
  /-- The run ended: the last step's outcome is Halted or Faulted (R354). -/
  | ended (s : State)
  /-- Every step so far returned Continue. -/
  | running (s : State)
  /-- The core takes no step: the fault latch was set before the run (60_exceptions.md R312). -/
  | noStep (r : Fault)
  /-- The model gave an instruction no meaning; no instruction of this model does. -/
  | noMeaning (r : Refusal)
  deriving DecidableEq, Repr

/-- `run()` watched for at most `n` steps: repeat `step` while it returns Continue (R125, R347). -/
def runFor : Nat → State → RunResult
  | 0, s => .running s
  | n + 1, s =>
    match step s with
    | .next t =>
      match t.outcome with
      | .continued => runFor n t
      | .halted | .faulted => .ended t
    | .fault r => .noStep r
    | .refused r => .noMeaning r

/-- `run()` from `s` ends in `t` (R125, R346, R354). A run need not end (R142): then no `t` is
related. -/
inductive RunEnds : State → State → Prop where
  | last {s t : State} (hstep : step s = .next t) (hend : t.outcome ≠ .continued) : RunEnds s t
  | more {s t u : State} (hstep : step s = .next t) (hgo : t.outcome = .continued)
      (hrest : RunEnds t u) : RunEnds s u

/-- `load_and_run(program)`, watched for at most `n` steps of its run: load, then reset, then run; a
refused load stops there (R345, D15). `none` for the refused load. -/
def loadAndRunFor (n : Nat) (program : List Byte) (s : State) : Option RunResult :=
  match hostLoad program s with
  | (t, .ok) => some (runFor n t.doReset)
  | (_, .loadOverflow) => none

/-! ### Reading the registers (R355) -/

/-- What the host reads of the registers, P as a byte in the layout of 10_state.md R24. -/
structure RegisterView where
  a : Byte
  x : Byte
  y : Byte
  sp : Byte
  pc : Addr
  p : Byte
  fault : Option FaultRecord
  deriving DecidableEq, Repr

/-- The host's view of the registers (R355). -/
def State.registers (s : State) : RegisterView where
  a := s.a
  x := s.x
  y := s.y
  sp := s.sp
  pc := s.pc
  p := s.p.toByte
  fault := s.fault

/-! ### The host's actions (R350) -/

/-- One action of the host between two steps. `run` is `step` repeated and `load_and_run` is `load`,
`reset`, `run` (R345, R347), so neither is an action of its own here. -/
inductive HostAction where
  | load (program : List Byte)
  | reset
  | step
  | peek (addr : Addr)
  | poke (addr : Addr) (v : Byte)
  | readRegisters
  deriving DecidableEq, Repr

/-- What the host gets back (R350). -/
inductive HostReply where
  | nothing
  | loaded (r : LoadReply)
  | stepped (o : StepOutcome)
  /-- The core takes no step while the fault latch is set (R353). -/
  | noStep
  | byte (v : Byte)
  | registers (r : RegisterView)
  deriving DecidableEq, Repr

/-- The state and the reply after one action of the host (R350, R351). A step the core does not take
leaves the state exactly as it is (60_exceptions.md R312). -/
def State.hostAct (s : State) : HostAction → State × HostReply
  | .load program => ((hostLoad program s).1, .loaded (hostLoad program s).2)
  | .reset => (s.doReset, .nothing)
  | .step =>
    match Sys2Proof.Machine.step s with
    | .next t => (t, .stepped t.outcome)
    | .fault _ | .refused _ => (s, .noStep)
  | .peek addr => (s, .byte (s.memRead addr))
  | .poke addr v => (s.memWrite addr v, .nothing)
  | .readRegisters => (s, .registers s.registers)

/-- The state after a sequence of host actions. -/
def State.hostActs (s : State) (actions : List HostAction) : State :=
  actions.foldl (fun t act => (t.hostAct act).1) s

end Sys2Proof.Machine
end

