-- ==== Sys2Proof/Safety.lean ====
section
/-! DEFINITION. What the claims call a good end, a stopped machine, a run without end, a state reached
from reset, and the invariant every step keeps. -/

namespace Sys2Proof.Machine

/-- A successful end of a run: halted, with no fault (70_reset_and_hazards.md R354). -/
def State.successfulEnd (s : State) : Prop := s.outcome = .halted

/-- Final-faulted: the latch is set and the core takes no step (60_exceptions.md R312). -/
def State.finalFaulted (s : State) : Prop := ∃ r, s.fault = some r

/-- A run from `s` never ends: after any number of steps each has returned Continue
(40_engine_control.md R142). -/
def NeverEnds (s : State) : Prop := ∀ n, ∃ t, runFor n s = .running t

/-- A state some host reaches: a reset, from any state, and then any actions of the host
(70_reset_and_hazards.md R350). -/
def ReachedFromReset (s : State) : Prop :=
  ∃ (s0 : State) (actions : List HostAction), s = s0.doReset.hostActs actions

/-- The three flags no instruction sets are clear (10_state.md R29, R30, R32). -/
def Status.unsetFlagsClear (p : Status) : Prop := p.b = false ∧ p.b2 = false ∧ p.v = false

/-- What the fault latch holds agrees with memory and PC: PC is one past the opcode's address, the byte
recorded is the byte there, and the kind is the one the default table gives that byte
(60_exceptions.md R300 to R303, R310). -/
def State.latchAgrees (s : State) : Prop :=
  ∀ r, s.fault = some r →
    s.pc = r.addr + 1#16 ∧ s.memRead r.addr = r.opcode ∧ s.halted = false ∧
      ((r.kind = .unrecognizedOpcode ∧ r.opcode ∈ unrecognizedBytes) ∨
        (r.kind = .unimplementedOpcode ∧ r.opcode ∉ unrecognizedBytes ∧
          (decodeOpcode r.opcode).implemented = false))

/-- The invariant every step keeps: canonical memory, the flags no instruction sets, and the latch. -/
structure State.Inv (s : State) : Prop where
  memory : s.mem.wf
  flags : s.p.unsetFlagsClear
  latch : s.latchAgrees

end Sys2Proof.Machine
end

