-- ==== Sys2Proof/Certificates/Slice0/Obligations.lean ====
section
/-! DEFINITION. The statements for the provers. The words the statements share come first; they name
fields of the state and bytes of memory, and the model's operations only where a statement is about
one. -/

namespace Sys2Proof.Statements

open Sys2Proof.Machine

/-! ### Shared words -/

/-- Exactly one byte of the 256 decodes to the instruction. Each instruction's rule states its byte; all
but ten of the bytes rest on the spec's decision D1 (30_encoding.md R95, log 1). -/
def EncodedBy (i : Instr) (op : Byte) : Prop := ∀ b, decodeOpcode b = i ↔ b = op

/-- A mnemonic's rows in the default table are exactly these, mode by mode, as its rule lists them (all
but ten of the bytes by decision D1, log 1). -/
def EncodedByModes (mnemonic : Mode → Instr) (rows : List (Byte × Mode)) : Prop :=
  ∀ b m, decodeOpcode b = mnemonic m ↔ (b, m) ∈ rows

/-- The state a handler runs in: the fetch has moved PC past the opcode byte (40_engine_control.md R121),
and has cleared the model's own field halted (log 13). -/
def afterFetch (s : State) : State := { s with pc := s.pc + 1#16, halted := false }

/-- Fault entry seen from a handler, whose PC is one past the opcode byte: the latch records kind, byte
and address, and nothing else changes (60_exceptions.md R303, R310). That the byte recorded is the one
memory holds at PC - 1 is the model's inference (log 12). -/
def faultEntry (k : FaultKind) (s : State) : State :=
  { s with fault := some ⟨k, s.memRead (s.pc - 1#16), s.pc - 1#16⟩ }

/-- The whole of a faulting step: PC one past the opcode byte, and the latch (60_exceptions.md R310). The
fetch clears the model's own field halted (log 13). -/
def faultedStep (k : FaultKind) (s : State) : State :=
  { s with
    pc := s.pc + 1#16
    halted := false
    fault := some ⟨k, s.memRead s.pc, s.pc⟩ }

/-- Z and N of a byte, every other flag as it was. -/
def withZN (p : Status) (v : Byte) : Status := { p with z := decide (v = 0x00#8), n := v.msb }

/-- The word of a low and a high byte. -/
def word (lo hi : Byte) : Addr := (hi ++ lo : BitVec (8 + 8))

/-- A handler that needs an address, given NoneAddressing; the byte recorded is that at PC - 1 (log 12). -/
def FaultsWithoutAddress (mnemonic : Mode → Instr) : Prop :=
  ∀ s, exec (mnemonic .noneAddressing) s = .next (faultEntry .unsupportedAddressingMode s)

/-- A load: the byte at the effective address goes to one register, Z and N are derived from it, and
nothing else changes. -/
def LoadsByte (mnemonic : Mode → Instr) (put : State → Byte → State) : Prop :=
  ∀ m s, m ≠ .noneAddressing → ∃ e, ea m s = some e ∧
    exec (mnemonic m) s =
      .next { put s (s.memRead e) with p := withZN s.p (s.memRead e) }

/-- A store: the register's byte at the effective address, every other byte of memory and everything
beside memory as it was. -/
def StoresByte (mnemonic : Mode → Instr) (value : State → Byte) : Prop :=
  ∀ m s, m ≠ .noneAddressing → ∃ e t, ea m s = some e ∧ exec (mnemonic m) s = .next t ∧
    t.memRead e = value s ∧ (∀ b, b ≠ e → t.memRead b = s.memRead b) ∧
    t = { s with mem := t.mem }

/-- A read-modify-write: the byte at the effective address becomes a function of itself, Z and N are
derived from the byte written, Carry becomes a function of the byte read, and nothing else changes. -/
def ModifiesByte (mnemonic : Mode → Instr) (f : Byte → Byte) (carry : State → Byte → Bool) : Prop :=
  ∀ m s, m ≠ .noneAddressing → ∃ e t, ea m s = some e ∧ exec (mnemonic m) s = .next t ∧
    t.memRead e = f (s.memRead e) ∧ (∀ b, b ≠ e → t.memRead b = s.memRead b) ∧
    t = { s with
      mem := t.mem
      p := { withZN s.p (f (s.memRead e)) with c := carry s (s.memRead e) } }

/-- An unimplemented instruction: it takes the fault UnimplementedOpcode, which records the byte at PC - 1
(log 12), and changes nothing else. -/
def TakesUnimplementedFault (i : Instr) : Prop :=
  ∀ s, exec i s = .next (faultEntry .unimplementedOpcode s)

/-- A step at one of these opcode bytes takes the fault UnimplementedOpcode(op, a); its fetch clears halted
(log 13). -/
def StepsToUnimplementedFault (ops : List Byte) : Prop :=
  ∀ s, s.fault = none → s.memRead s.pc ∈ ops →
    step s = .next (faultedStep .unimplementedOpcode s)

/-- Two states that differ in the status register alone. -/
def SameButFlags (s t : State) : Prop := t = { s with p := t.p }

/-- Two watched runs that ended alike, in states that differ in the status register alone. -/
def RunsAgreeButFlags : RunResult → RunResult → Prop
  | .ended s, .ended t => SameButFlags s t
  | .running s, .running t => SameButFlags s t
  | .noStep q, .noStep r => q = r
  | .noMeaning q, .noMeaning r => q = r
  | _, _ => False

end Sys2Proof.Statements

open Sys2Proof Sys2Proof.Machine Sys2Proof.Statements

/-! ### Creation, reset, and the status register -/

/-- The machine right after reset (10_state.md R40). SP, PC, P's byte and memory rest on the spec's
decisions D5, D6, D2, D3 and D9 (logs 2, 3, 5, 6, 9), and halted on log 13. -/
def Obligations.ResetStateValues : Prop :=
  State.reset.a = 0x00#8 ∧ State.reset.x = 0x00#8 ∧ State.reset.y = 0x00#8 ∧
  State.reset.sp = 0xFD#8 ∧ State.reset.pc = 0x0000#16 ∧
  State.reset.p.i = true ∧ State.reset.p.n = true ∧
  State.reset.p.c = false ∧ State.reset.p.z = false ∧ State.reset.p.d = false ∧
  State.reset.p.b = false ∧ State.reset.p.b2 = false ∧ State.reset.p.v = false ∧
  State.reset.p.toByte = 0x84#8 ∧ (∀ addr, State.reset.memRead addr = 0x00#8) ∧
  State.reset.fault = none ∧ State.reset.halted = false

/-- `reset()` from any state (70_reset_and_hazards.md R341): the values of SP, the vector's address and
the flags beside I and N are the spec's decisions D5, D6, D3 (logs 3, 5, 6), clearing F is D13 (log 11),
and clearing halted is log 26. -/
def Obligations.ResetFromAnyState : Prop :=
  ∀ s : State, s.doReset =
    { a := 0x00#8, x := 0x00#8, y := 0x00#8, sp := 0xFD#8
      pc := word (s.memRead 0xFFFC#16) (s.memRead 0xFFFD#16)
      p := ⟨false, false, true, false, false, false, false, true⟩
      mem := s.mem, fault := none, halted := false }

/-- The state at creation, for every INIT_REGS (10_state.md R41; decisions D9, D10, logs 9, 10; halted is
log 13). -/
def Obligations.CreationForEveryInitRegs : Prop :=
  ∀ r : InitRegs, (∀ addr, (State.create r).memRead addr = 0x00#8) ∧
    (State.create r).fault = none ∧ (State.create r).halted = false ∧
    (State.create r).a = r.a ∧ (State.create r).x = r.x ∧ (State.create r).y = r.y ∧
    (State.create r).sp = r.sp ∧ (State.create r).pc = r.pc ∧ (State.create r).p = r.p ∧
    (State.create r).doReset = State.reset

/-- The byte layout of P (10_state.md R24, decision D2, log 2), which only the host sees. -/
def Obligations.StatusByteLayout : Prop :=
  ∀ p : Status, Status.ofByte p.toByte = p ∧
    p.toByte.getLsbD 0 = p.c ∧ p.toByte.getLsbD 1 = p.z ∧ p.toByte.getLsbD 2 = p.i ∧
    p.toByte.getLsbD 3 = p.d ∧ p.toByte.getLsbD 4 = p.b ∧ p.toByte.getLsbD 5 = p.b2 ∧
    p.toByte.getLsbD 6 = p.v ∧ p.toByte.getLsbD 7 = p.n

/-- SetZN (10_state.md R31): Z and N are functions of the byte alone, and no other flag, register or byte
is touched. -/
def Obligations.SetZNDerivesZeroAndNegative : Prop :=
  ∀ (s : State) (v : Byte),
    (s.setZN v).p.z = decide (v = 0x00#8) ∧ (s.setZN v).p.n = v.msb ∧
    (s.setZN v).p.c = s.p.c ∧ (s.setZN v).p.i = s.p.i ∧ (s.setZN v).p.d = s.p.d ∧
    (s.setZN v).p.b = s.p.b ∧ (s.setZN v).p.b2 = s.p.b2 ∧ (s.setZN v).p.v = s.p.v ∧
    s.setZN v = { s with p := (s.setZN v).p }

/-! ### Memory and the stack window -/

/-- `MemWrite(addr, 1, v)` sets one byte and no other (20_memory.md R51, R52). -/
def Obligations.ByteWriteSetsOneByte : Prop :=
  ∀ (s : State) (addr : Addr) (v : Byte),
    (s.memWrite addr v).memRead addr = v ∧
    (∀ b, b ≠ addr → (s.memWrite addr v).memRead b = s.memRead b) ∧
    s.memWrite addr v = { s with mem := (s.memWrite addr v).mem }

/-- 16-bit reads and writes are little-endian byte pairs that wrap at 0xFFFF (20_memory.md R53, R54). -/
def Obligations.WordAccessIsLittleEndianAndWraps : Prop :=
  (∀ (s : State) (addr : Addr), s.memRead16 addr = word (s.memRead addr) (s.memRead (addr + 1#16))) ∧
  (∀ s : State, s.memRead16 0xFFFF#16 = word (s.memRead 0xFFFF#16) (s.memRead 0x0000#16)) ∧
  (∀ (s : State) (addr v : Addr),
    (s.memWrite16 addr v).memRead addr = v.extractLsb' 0 8 ∧
    (s.memWrite16 addr v).memRead (addr + 1#16) = v.extractLsb' 8 8 ∧
    (∀ b, b ≠ addr → b ≠ addr + 1#16 → (s.memWrite16 addr v).memRead b = s.memRead b) ∧
    (s.memWrite16 addr v).memRead16 addr = v ∧
    s.memWrite16 addr v = { s with mem := (s.memWrite16 addr v).mem })

/-- The model's canonical form of memory (log 27): a write keeps it, and two canonical memories that read
the same at every address are equal data. -/
def Obligations.CanonicalMemoryIsDeterminedByItsReads : Prop :=
  (∀ (m : Memory) (addr : Addr) (v : Byte), m.wf → (m.write addr v).wf) ∧
  (∀ m k : Memory, m.wf → k.wf → (∀ addr, m.read addr = k.read addr) → m = k)

/-- `Pop`, `Push16` and `Pop16` (20_memory.md R61, R62, R63), over the named constant STACK_BASE: a pop
reads above SP; the high byte of a pushed word is written first and so lies higher; a pushed word pops
back, from every SP. -/
def Obligations.PopAndWordStackOrder : Prop :=
  (∀ s : State, s.pop.2 = { s with sp := s.sp + 1#8 } ∧
    s.pop.1 = s.memRead (Params.stackBase + (s.sp + 1#8).setWidth 16)) ∧
  (∀ (s : State) (v : Addr),
    (s.push16 v).memRead (Params.stackBase + s.sp.setWidth 16) = v.extractLsb' 8 8 ∧
    (s.push16 v).memRead (Params.stackBase + (s.sp - 1#8).setWidth 16) = v.extractLsb' 0 8 ∧
    (s.push16 v).sp = s.sp - 2#8 ∧
    (∀ b, b ≠ Params.stackBase + s.sp.setWidth 16 →
      b ≠ Params.stackBase + (s.sp - 1#8).setWidth 16 → (s.push16 v).memRead b = s.memRead b)) ∧
  (∀ s : State,
    s.pop16.1 = word (s.memRead (Params.stackBase + (s.sp + 1#8).setWidth 16))
      (s.memRead (Params.stackBase + (s.sp + 2#8).setWidth 16)) ∧
    s.pop16.2 = { s with sp := s.sp + 2#8 }) ∧
  (∀ (s : State) (v : Addr), (s.push16 v).pop16.1 = v ∧ (s.push16 v).pop16.2.sp = s.sp)

/-- Pushes wrap SP at 8 bits and never leave the stack page 0x0100 to 0x01FF (20_memory.md R60, R64; the
page's place is decision D4, log 4): any sequence of pushes moves SP by its length, 256 bring it back,
and no byte outside the page changes. -/
def Obligations.PushesWrapAndStayInStackPage : Prop :=
  (∀ (s : State) (v : Byte), (s.push v).sp = s.sp - 1#8 ∧
    (s.push v).memRead (0x0100#16 + s.sp.setWidth 16) = v ∧
    (∀ b, b ≠ 0x0100#16 + s.sp.setWidth 16 → (s.push v).memRead b = s.memRead b)) ∧
  ∀ (vs : List Byte) (s : State),
    (vs.foldl State.push s).sp = s.sp - BitVec.ofNat 8 vs.length ∧
    (vs.length = 256 → (vs.foldl State.push s).sp = s.sp) ∧
    (∀ b : Addr, b.toNat < 0x0100 ∨ 0x01FF < b.toNat →
      (vs.foldl State.push s).memRead b = s.memRead b)

/-! ### Addressing modes -/

/-- Immediate and the ZeroPage modes (20_memory.md R71 to R74): the address, its bound, the length, and
which rows use ZeroPage_Y. -/
def Obligations.ImmediateAndZeroPageAddresses : Prop :=
  (∀ s : State, ea .immediate s = some s.pc) ∧
  (∀ s : State, ea .zeroPage s = some ((s.memRead s.pc).setWidth 16)) ∧
  (∀ s : State, ea .zeroPageX s = some ((s.memRead s.pc + s.x).setWidth 16)) ∧
  (∀ s : State, ea .zeroPageY s = some ((s.memRead s.pc + s.y).setWidth 16)) ∧
  (∀ (s : State) (e : Addr),
    ea .zeroPage s = some e ∨ ea .zeroPageX s = some e ∨ ea .zeroPageY s = some e →
      e.toNat ≤ 0x00FF) ∧
  (∀ d ∈ opcodeTable, d.instr.mode ∈ [.immediate, .zeroPage, .zeroPageX, .zeroPageY] →
    d.length = 2) ∧
  (∀ d ∈ opcodeTable, d.instr.mode = .zeroPageY ↔
    d = ⟨0xB6, .ldx .zeroPageY, 2⟩ ∨ d = ⟨0x96, .stx .zeroPageY, 2⟩)

/-- The Absolute modes (20_memory.md R75 to R77): the operand's high byte at `PC +16 1`, indexing modulo
65536, and the length. -/
def Obligations.AbsoluteAddresses : Prop :=
  (∀ s : State, ea .absolute s = some (word (s.memRead s.pc) (s.memRead (s.pc + 1#16)))) ∧
  (∀ s : State, ea .absoluteX s =
    some (BitVec.ofNat 16 ((word (s.memRead s.pc) (s.memRead (s.pc + 1#16))).toNat + s.x.toNat))) ∧
  (∀ s : State, ea .absoluteY s =
    some (BitVec.ofNat 16 ((word (s.memRead s.pc) (s.memRead (s.pc + 1#16))).toNat + s.y.toNat))) ∧
  (∀ d ∈ opcodeTable, d.instr.mode ∈ [.absolute, .absoluteX, .absoluteY] → d.length = 3)

/-- Indirect_X and Indirect_Y (20_memory.md R78, R79): the pointer and its high byte's address wrap within
page 0, the final index modulo 65536, and the length. -/
def Obligations.IndirectAddressesWrapInZeroPage : Prop :=
  (∀ s : State, let ptr := s.memRead s.pc + s.x
    ea .indirectX s =
      some (word (s.memRead (ptr.setWidth 16)) (s.memRead ((ptr + 1#8).setWidth 16)))) ∧
  (∀ s : State, s.memRead s.pc + s.x = 0xFF#8 →
    ea .indirectX s = some (word (s.memRead 0x00FF#16) (s.memRead 0x0000#16))) ∧
  (∀ s : State, let ptr := s.memRead s.pc
    ea .indirectY s = some (BitVec.ofNat 16
      ((word (s.memRead (ptr.setWidth 16)) (s.memRead ((ptr + 1#8).setWidth 16))).toNat +
        s.y.toNat))) ∧
  (∀ d ∈ opcodeTable, d.instr.mode ∈ [.indirectX, .indirectY] → d.length = 2)

/-- NoneAddressing never resolves, and the eleven handlers that need an address take the fault
UnsupportedAddressingModeForOperation on it, whatever table pairs them, while no row of the default
table does (20_memory.md R80, 60_exceptions.md R302). That a handler records the byte at PC - 1 is log 12
(DEDUCED), and that the step clears halted is log 13 (DESIGN CHOICE). -/
def Obligations.HandlersFaultWithoutAddress : Prop :=
  (∀ (m : Mode) (s : State), ea m s = none ↔ m = .noneAddressing) ∧
  FaultsWithoutAddress .lda ∧ FaultsWithoutAddress .ldx ∧ FaultsWithoutAddress .ldy ∧
  FaultsWithoutAddress .sta ∧ FaultsWithoutAddress .stx ∧ FaultsWithoutAddress .sty ∧
  FaultsWithoutAddress .inc ∧ FaultsWithoutAddress .dec ∧
  FaultsWithoutAddress .and ∧ FaultsWithoutAddress .eor ∧ FaultsWithoutAddress .ora ∧
  (∀ (table : OpcodeTable) (s : State) (d : Descriptor), s.fault = none →
    lookup table (s.memRead s.pc) = some d →
    d.instr ∈ [.lda .noneAddressing, .ldx .noneAddressing, .ldy .noneAddressing,
      .sta .noneAddressing, .stx .noneAddressing, .sty .noneAddressing, .inc .noneAddressing,
      .dec .noneAddressing, .and .noneAddressing, .eor .noneAddressing, .ora .noneAddressing] →
    stepWith table s = .next (faultedStep .unsupportedAddressingMode s)) ∧
  (∀ (s t : State) (r : FaultRecord), step s = .next t → t.fault = some r →
    r.kind ≠ .unsupportedAddressingMode)

/-! ### Implemented instructions -/

/-- LDA, LDX, LDY (41_load_store.md R160, R161, R162): encodings, effect and fault. That the fault records
the byte at PC - 1, in every state, is the model's inference (DEDUCED, log 12). -/
def Obligations.LoadsWriteRegisterAndZN : Prop :=
  EncodedByModes .lda [(0xA9, .immediate), (0xA5, .zeroPage), (0xB5, .zeroPageX),
    (0xAD, .absolute), (0xBD, .absoluteX), (0xB9, .absoluteY), (0xA1, .indirectX),
    (0xB1, .indirectY)] ∧
  EncodedByModes .ldx [(0xA2, .immediate), (0xA6, .zeroPage), (0xB6, .zeroPageY),
    (0xAE, .absolute), (0xBE, .absoluteY)] ∧
  EncodedByModes .ldy [(0xA0, .immediate), (0xA4, .zeroPage), (0xB4, .zeroPageX),
    (0xAC, .absolute), (0xBC, .absoluteX)] ∧
  LoadsByte .lda (fun s v => { s with a := v }) ∧ FaultsWithoutAddress .lda ∧
  LoadsByte .ldx (fun s v => { s with x := v }) ∧ FaultsWithoutAddress .ldx ∧
  LoadsByte .ldy (fun s v => { s with y := v }) ∧ FaultsWithoutAddress .ldy

/-- STA, STX, STY (41_load_store.md R163, R164, R165): encodings, with 0x89 unrecognized, effect and
fault. That the fault records the byte at PC - 1, in every state, is the model's inference (DEDUCED,
log 12). -/
def Obligations.StoresWriteOneByteNoFlag : Prop :=
  EncodedByModes .sta [(0x85, .zeroPage), (0x95, .zeroPageX), (0x8D, .absolute),
    (0x9D, .absoluteX), (0x99, .absoluteY), (0x81, .indirectX), (0x91, .indirectY)] ∧
  decodeOpcode 0x89 = .unrecognized 0x89 ∧
  EncodedByModes .stx [(0x86, .zeroPage), (0x96, .zeroPageY), (0x8E, .absolute)] ∧
  EncodedByModes .sty [(0x84, .zeroPage), (0x94, .zeroPageX), (0x8C, .absolute)] ∧
  StoresByte .sta (fun s => s.a) ∧ FaultsWithoutAddress .sta ∧
  StoresByte .stx (fun s => s.x) ∧ FaultsWithoutAddress .stx ∧
  StoresByte .sty (fun s => s.y) ∧ FaultsWithoutAddress .sty

/-- TAX, TAY, TSX, TXA, TYA, TXS (42_transfer.md R180 to R185): encodings and effect; TXS sets no flag. -/
def Obligations.TransfersCopyRegisters : Prop :=
  EncodedBy .tax 0xAA ∧ EncodedBy .tay 0xA8 ∧ EncodedBy .tsx 0xBA ∧ EncodedBy .txa 0x8A ∧
  EncodedBy .tya 0x98 ∧ EncodedBy .txs 0x9A ∧
  ∀ s : State,
    exec .tax s = .next { s with x := s.a, p := withZN s.p s.a } ∧
    exec .tay s = .next { s with y := s.a, p := withZN s.p s.a } ∧
    exec .tsx s = .next { s with x := s.sp, p := withZN s.p s.sp } ∧
    exec .txa s = .next { s with a := s.x, p := withZN s.p s.x } ∧
    exec .tya s = .next { s with a := s.y, p := withZN s.p s.y } ∧
    exec .txs s = .next { s with sp := s.x }

/-- INC and DEC (43_inc_dec.md R200, R201): encodings, the byte plus or minus one modulo 256 written back,
Z and N from the byte written, Carry and Overflow as they were, and the fault. That the fault records the
byte at PC - 1, in every state, is the model's inference (DEDUCED, log 12). -/
def Obligations.MemoryIncDecWraps : Prop :=
  EncodedByModes .inc [(0xE6, .zeroPage), (0xF6, .zeroPageX), (0xEE, .absolute),
    (0xFE, .absoluteX)] ∧
  EncodedByModes .dec [(0xC6, .zeroPage), (0xD6, .zeroPageX), (0xCE, .absolute),
    (0xDE, .absoluteX)] ∧
  ModifiesByte .inc (fun v => BitVec.ofNat 8 (v.toNat + 1)) (fun s _ => s.p.c) ∧
  ModifiesByte .dec (fun v => BitVec.ofNat 8 (v.toNat + 255)) (fun s _ => s.p.c) ∧
  FaultsWithoutAddress .inc ∧ FaultsWithoutAddress .dec

/-- INX, INY, DEX, DEY (43_inc_dec.md R202 to R205): encodings and effect. -/
def Obligations.RegisterIncDecWraps : Prop :=
  EncodedBy .inx 0xE8 ∧ EncodedBy .iny 0xC8 ∧ EncodedBy .dex 0xCA ∧ EncodedBy .dey 0x88 ∧
  (∀ (s : State) (v : Byte), v.toNat = (s.x.toNat + 1) % 256 →
    exec .inx s = .next { s with x := v, p := withZN s.p v }) ∧
  (∀ (s : State) (v : Byte), v.toNat = (s.y.toNat + 1) % 256 →
    exec .iny s = .next { s with y := v, p := withZN s.p v }) ∧
  (∀ (s : State) (v : Byte), v.toNat = (s.x.toNat + 255) % 256 →
    exec .dex s = .next { s with x := v, p := withZN s.p v }) ∧
  (∀ (s : State) (v : Byte), v.toNat = (s.y.toNat + 255) % 256 →
    exec .dey s = .next { s with y := v, p := withZN s.p v })

/-- AND, EOR, ORA (44_logical_shift.md R220, R221, R222): encodings, effect on A, Z and N, and fault. That
the fault records the byte at PC - 1, in every state, is the model's inference (DEDUCED, log 12). -/
def Obligations.LogicalOperationsCombineIntoA : Prop :=
  EncodedByModes .and [(0x29, .immediate), (0x25, .zeroPage), (0x35, .zeroPageX),
    (0x2D, .absolute), (0x3D, .absoluteX), (0x39, .absoluteY), (0x21, .indirectX),
    (0x31, .indirectY)] ∧
  EncodedByModes .eor [(0x49, .immediate), (0x45, .zeroPage), (0x55, .zeroPageX),
    (0x4D, .absolute), (0x5D, .absoluteX), (0x59, .absoluteY), (0x41, .indirectX),
    (0x51, .indirectY)] ∧
  EncodedByModes .ora [(0x09, .immediate), (0x05, .zeroPage), (0x15, .zeroPageX),
    (0x0D, .absolute), (0x1D, .absoluteX), (0x19, .absoluteY), (0x01, .indirectX),
    (0x11, .indirectY)] ∧
  (∀ m s, m ≠ .noneAddressing → ∃ e, ea m s = some e ∧
    exec (.and m) s =
      .next { s with a := s.a &&& s.memRead e, p := withZN s.p (s.a &&& s.memRead e) } ∧
    exec (.eor m) s =
      .next { s with a := s.a ^^^ s.memRead e, p := withZN s.p (s.a ^^^ s.memRead e) } ∧
    exec (.ora m) s =
      .next { s with a := s.a ||| s.memRead e, p := withZN s.p (s.a ||| s.memRead e) }) ∧
  FaultsWithoutAddress .and ∧ FaultsWithoutAddress .eor ∧ FaultsWithoutAddress .ora

/-- ASL (44_logical_shift.md R223): encodings; the accumulator form takes NoneAddressing, every other
mode shifts its memory byte; Carry is the old bit 7, Z and N are the result's, bit 0 of the result is 0,
and no form faults. -/
def Obligations.ShiftLeftMovesBitSevenToCarry : Prop :=
  EncodedByModes .asl [(0x0A, .noneAddressing), (0x06, .zeroPage), (0x16, .zeroPageX),
    (0x0E, .absolute), (0x1E, .absoluteX)] ∧
  (∀ s : State, let r := BitVec.ofNat 8 (2 * s.a.toNat)
    exec (.asl .noneAddressing) s =
      .next { s with a := r, p := { withZN s.p r with c := s.a.msb } }) ∧
  ModifiesByte .asl (fun v => BitVec.ofNat 8 (2 * v.toNat)) (fun _ v => v.msb)

/-- PLA (45_stack_flags.md R240): the byte above SP in the stack page goes to A and SP moves up by one,
wrapping. The page's place is decision D4 (log 4); that Z and N are derived is decision D8 (log 8). With
the parameter PLA_SETS_ZN false the flags stay. -/
def Obligations.PullAccumulatorReadsAboveStackPointer : Prop :=
  EncodedBy .pla 0x68 ∧
  ∀ s : State, let v := s.memRead (0x0100#16 + (s.sp + 1#8).setWidth 16)
    exec .pla s = .next { s with a := v, sp := s.sp + 1#8, p := withZN s.p v } ∧
    plaWith false s = { s with a := v, sp := s.sp + 1#8 }

/-- CLC, CLD, CLI, CLV, SEC, SED, SEI (45_stack_flags.md R243 to R249): each writes its one flag, whatever
it held. -/
def Obligations.FlagInstructionsWriteOneFlag : Prop :=
  EncodedBy .clc 0x18 ∧ EncodedBy .cld 0xD8 ∧ EncodedBy .cli 0x58 ∧ EncodedBy .clv 0xB8 ∧
  EncodedBy .sec 0x38 ∧ EncodedBy .sed 0xF8 ∧ EncodedBy .sei 0x78 ∧
  ∀ s : State,
    exec .clc s = .next { s with p := { s.p with c := false } } ∧
    exec .cld s = .next { s with p := { s.p with d := false } } ∧
    exec .cli s = .next { s with p := { s.p with i := false } } ∧
    exec .clv s = .next { s with p := { s.p with v := false } } ∧
    exec .sec s = .next { s with p := { s.p with c := true } } ∧
    exec .sed s = .next { s with p := { s.p with d := true } } ∧
    exec .sei s = .next { s with p := { s.p with i := true } }

/-- BRK and NOP (40_engine_control.md R126, R127; 60_exceptions.md R313): BRK ends the step Halted with
PC one past it, wrapping, no fault, no push and no flag; of what the spec gives the machine, NOP changes
PC alone. That BRK sets the model's own field halted, and that the fetch of NOP's step clears it, is
log 13 (DESIGN CHOICE). -/
def Obligations.HaltAndNopChangeOnlyPc : Prop :=
  EncodedBy .brk 0x00 ∧ EncodedBy .nop 0xEA ∧
  (∀ s : State, exec .brk s = .next { s with halted := true } ∧ exec .nop s = .next s) ∧
  (∀ s : State, s.fault = none → s.memRead s.pc = 0x00#8 →
    ∃ t, step s = .next t ∧ t.outcome = .halted ∧
      t = { s with pc := s.pc + 1#16, halted := true }) ∧
  (∀ s : State, s.fault = none → s.memRead s.pc = 0xEA#8 →
    ∃ t, step s = .next t ∧ t.outcome = .continued ∧
      t = { s with pc := s.pc + 1#16, halted := false })

/-! ### Unimplemented instructions and unrecognized bytes -/

/-- The control transfers (40_engine_control.md R130 to R141): encodings, and the fault each takes. That
the handler records the byte at PC - 1, in every state, is log 12 (DEDUCED), and that the step clears
halted is log 13 (DESIGN CHOICE). -/
def Obligations.ControlTransfersAreUnimplemented : Prop :=
  EncodedBy .bcc 0x90 ∧ EncodedBy .bcs 0xB0 ∧ EncodedBy .beq 0xF0 ∧ EncodedBy .bmi 0x30 ∧
  EncodedBy .bne 0xD0 ∧ EncodedBy .bpl 0x10 ∧ EncodedBy .bvc 0x50 ∧ EncodedBy .bvs 0x70 ∧
  EncodedBy (.jmp .absolute) 0x4C ∧ EncodedBy (.jmp .indirect) 0x6C ∧ EncodedBy .jsr 0x20 ∧
  EncodedBy .rts 0x60 ∧ EncodedBy .rti 0x40 ∧
  (∀ i ∈ [Instr.bcc, .bcs, .beq, .bmi, .bne, .bpl, .bvc, .bvs, .jmp .absolute, .jmp .indirect,
    .jsr, .rts, .rti], TakesUnimplementedFault i) ∧
  StepsToUnimplementedFault [0x90, 0xB0, 0xF0, 0x30, 0xD0, 0x10, 0x50, 0x70, 0x4C, 0x6C, 0x20,
    0x60, 0x40]

/-- BIT, LSR, ROL, ROR, PHA, PHP, PLP (44_logical_shift.md R224 to R227, 45_stack_flags.md R241, R242,
R250): encodings, and the fault each takes. That the handler records the byte at PC - 1, in every state,
is log 12 (DEDUCED), and that the step clears halted is log 13 (DESIGN CHOICE). -/
def Obligations.ShiftsBitAndPushesAreUnimplemented : Prop :=
  EncodedByModes .bit [(0x24, .zeroPage), (0x2C, .absolute)] ∧
  EncodedByModes .lsr [(0x4A, .noneAddressing), (0x46, .zeroPage), (0x56, .zeroPageX),
    (0x4E, .absolute), (0x5E, .absoluteX)] ∧
  EncodedByModes .rol [(0x2A, .noneAddressing), (0x26, .zeroPage), (0x36, .zeroPageX),
    (0x2E, .absolute), (0x3E, .absoluteX)] ∧
  EncodedByModes .ror [(0x6A, .noneAddressing), (0x66, .zeroPage), (0x76, .zeroPageX),
    (0x6E, .absolute), (0x7E, .absoluteX)] ∧
  EncodedBy .pha 0x48 ∧ EncodedBy .php 0x08 ∧ EncodedBy .plp 0x28 ∧
  (∀ m, TakesUnimplementedFault (.bit m) ∧ TakesUnimplementedFault (.lsr m) ∧
    TakesUnimplementedFault (.rol m) ∧ TakesUnimplementedFault (.ror m)) ∧
  TakesUnimplementedFault .pha ∧ TakesUnimplementedFault .php ∧ TakesUnimplementedFault .plp ∧
  StepsToUnimplementedFault [0x24, 0x2C, 0x4A, 0x46, 0x56, 0x4E, 0x5E, 0x2A, 0x26, 0x36, 0x2E,
    0x3E, 0x6A, 0x66, 0x76, 0x6E, 0x7E, 0x48, 0x08, 0x28]

/-- ADC, SBC, CMP, CPX, CPY (46_arith_compare.md R260 to R264): encodings, and the fault each takes. That
the handler records the byte at PC - 1, in every state, is log 12 (DEDUCED), and that the step clears
halted is log 13 (DESIGN CHOICE). -/
def Obligations.ArithmeticAndComparesAreUnimplemented : Prop :=
  EncodedByModes .adc [(0x69, .immediate), (0x65, .zeroPage), (0x75, .zeroPageX),
    (0x6D, .absolute), (0x7D, .absoluteX), (0x79, .absoluteY), (0x61, .indirectX),
    (0x71, .indirectY)] ∧
  EncodedByModes .sbc [(0xE9, .immediate), (0xE5, .zeroPage), (0xF5, .zeroPageX),
    (0xED, .absolute), (0xFD, .absoluteX), (0xF9, .absoluteY), (0xE1, .indirectX),
    (0xF1, .indirectY)] ∧
  EncodedByModes .cmp [(0xC9, .immediate), (0xC5, .zeroPage), (0xD5, .zeroPageX),
    (0xCD, .absolute), (0xDD, .absoluteX), (0xD9, .absoluteY), (0xC1, .indirectX),
    (0xD1, .indirectY)] ∧
  EncodedByModes .cpx [(0xE0, .immediate), (0xE4, .zeroPage), (0xEC, .absolute)] ∧
  EncodedByModes .cpy [(0xC0, .immediate), (0xC4, .zeroPage), (0xCC, .absolute)] ∧
  (∀ m, TakesUnimplementedFault (.adc m) ∧ TakesUnimplementedFault (.sbc m) ∧
    TakesUnimplementedFault (.cmp m) ∧ TakesUnimplementedFault (.cpx m) ∧
    TakesUnimplementedFault (.cpy m)) ∧
  StepsToUnimplementedFault [0x69, 0x65, 0x75, 0x6D, 0x7D, 0x79, 0x61, 0x71, 0xE9, 0xE5, 0xF5,
    0xED, 0xFD, 0xF9, 0xE1, 0xF1, 0xC9, 0xC5, 0xD5, 0xCD, 0xDD, 0xD9, 0xC1, 0xD1, 0xE0, 0xE4,
    0xEC, 0xC0, 0xC4, 0xCC]

/-- UnrecognizedOpcode (60_exceptions.md R300), under any opcode table and for the 105 bytes of the
default one. The instruction `unrecognized op` is the model's own syntax (log 23, DESIGN CHOICE), that
its handler records the byte at PC - 1 is log 12 (DEDUCED), and that the step clears halted is log 13
(DESIGN CHOICE). -/
def Obligations.ByteOutsideTableFaults : Prop :=
  (∀ (op : Byte) (s : State),
    exec (.unrecognized op) s = .next (faultEntry .unrecognizedOpcode s)) ∧
  (∀ (table : OpcodeTable) (s : State), s.fault = none → lookup table (s.memRead s.pc) = none →
    stepWith table s = .next (faultedStep .unrecognizedOpcode s)) ∧
  (∀ op : Byte, lookup opcodeTable op = none ↔ op ∈ unrecognizedBytes) ∧
  unrecognizedBytes.length = 105 ∧ unrecognizedBytes.Nodup ∧
  (∀ s : State, s.fault = none → s.memRead s.pc ∈ unrecognizedBytes →
    step s = .next (faultedStep .unrecognizedOpcode s))

/-- UnimplementedOpcode (60_exceptions.md R301), under any opcode table and for the 63 bytes of the
default one. That the step clears halted is log 13 (DESIGN CHOICE), and that the model's own syntax for a
byte without a row is shut out is log 23. -/
def Obligations.RecognizedMnemonicWithoutHandlerFaults : Prop :=
  (∀ (table : OpcodeTable) (s : State) (d : Descriptor), s.fault = none →
    lookup table (s.memRead s.pc) = some d → d.instr.implemented = false →
    (∀ op, d.instr ≠ .unrecognized op) →
    stepWith table s = .next (faultedStep .unimplementedOpcode s)) ∧
  (opcodeTable.filter fun d => !d.instr.implemented).length = 63 ∧
  (∀ (s : State), s.fault = none → s.memRead s.pc ∉ unrecognizedBytes →
    (decodeOpcode (s.memRead s.pc)).implemented = false →
    step s = .next (faultedStep .unimplementedOpcode s))

/-! ### The engine -/

/-- A step runs the decoded instruction: where the three bytes at PC decode, the instruction is
well-formed and the step is `exec` of it in the state the fetch left, with PC then moved past the operand
bytes unless the instruction halted or faulted (40_engine_control.md R120 to R124). That `exec` is the
handler in the state after the fetch is log 28, that the fetch clears halted is log 13, and that an
unrecognized byte has no operand bytes is log 23 (each DESIGN CHOICE). -/
def Obligations.StepRunsTheDecodedInstruction : Prop :=
  ∀ (s : State) (d : Decoded), s.fault = none →
    decode [s.memRead s.pc, s.memRead (s.pc + 1#16), s.memRead (s.pc + 2#16)] = .ok d →
    d.instr.wf = true ∧
    step s =
      match exec d.instr (afterFetch s) with
      | .next t =>
        .next (match t.outcome with
          | .continued => { t with pc := t.pc + BitVec.ofNat 16 d.operands.length }
          | .halted | .faulted => t)
      | .fault r => .fault r
      | .refused r => .refused r

/-- Every step from an unfaulted state has exactly one of the three outcomes, each with its PC: the
opcode's address plus the length, or plus one (40_engine_control.md R124, R128; what a fault leaves in PC
is decision D11, log 11). It halts exactly at the byte 0x00, faults exactly at an unimplemented or
unrecognized byte. That the outcome is read from the latch and from halted is log 13 (DESIGN CHOICE). -/
def Obligations.StepHasOneOfThreeOutcomes : Prop :=
  ∀ s : State, s.fault = none → ∃ t, step s = .next t ∧
    (t.outcome = .continued ↔
      (decodeOpcode (s.memRead s.pc)).implemented = true ∧ s.memRead s.pc ≠ 0x00#8) ∧
    (t.outcome = .halted ↔ s.memRead s.pc = 0x00#8) ∧
    (t.outcome = .faulted ↔ (decodeOpcode (s.memRead s.pc)).implemented = false) ∧
    (t.outcome = .continued →
      t.pc = s.pc + BitVec.ofNat 16 (lengthOf (s.memRead s.pc)) ∧ t.fault = none) ∧
    (t.outcome = .halted → t.pc = s.pc + 1#16 ∧ t.fault = none) ∧
    (t.outcome = .faulted → t.pc = s.pc + 1#16)

/-- A faulting step changes PC by the fetch's increment and sets F, and nothing else, under any opcode
table (40_engine_control.md R129). halted is the model's own field (log 13). -/
def Obligations.FaultingStepChangesOnlyPcAndLatch : Prop :=
  ∀ (table : OpcodeTable) (s t : State), stepWith table s = .next t → t.outcome = .faulted →
    ∃ k, t = faultedStep k s

/-- While F is set there is no step, under any table, and only reset clears F among all the host's
actions (60_exceptions.md R312, decision D13, log 11). -/
def Obligations.NoStepWhileFaultedAndOnlyResetClears : Prop :=
  (∀ (table : OpcodeTable) (s : State) (r : FaultRecord), s.fault = some r →
    stepWith table s = .fault (.latched r)) ∧
  (∀ (s : State) (r : FaultRecord), s.fault = some r → (s.hostAct .step).1 = s) ∧
  (∀ (s : State) (r : FaultRecord) (act : HostAction), s.fault = some r →
    ((s.hostAct act).1.fault = none ↔ act = .reset))

/-- A halt is not latched (40_engine_control.md R128, decision D14, log 13): the next step does not read
whether the last one halted. -/
def Obligations.HaltIsNotLatched : Prop :=
  ∀ (s : State) (h : Bool), step { s with halted := h } = step s

/-- The next fetch sees a store (20_memory.md R84, 70_reset_and_hazards.md R366, decision D17, log 16): a
store whose address is the next instruction's makes the next step run the stored byte. That the fetch
clears halted is log 13 (DESIGN CHOICE). -/
def Obligations.NextFetchSeesTheStore : Prop :=
  ∀ (s : State) (m : Mode) (v : Byte), s.fault = none →
    (decodeOpcode (s.memRead s.pc) = .sta m ∧ v = s.a ∨
      decodeOpcode (s.memRead s.pc) = .stx m ∧ v = s.x ∨
      decodeOpcode (s.memRead s.pc) = .sty m ∧ v = s.y) →
    ea m (afterFetch s) = some (s.pc + BitVec.ofNat 16 (lengthOf (s.memRead s.pc))) →
    ∃ t, step s = .next t ∧ t.memRead t.pc = v ∧
      step t = finish (lengthOf v) (exec (decodeOpcode v) (afterFetch t))

/-! ### Frames, over every instruction -/

/-- Which instructions may change A, X, Y and SP; none changes PC, which is the engine's alone
(10_state.md R21). -/
def Obligations.RegistersChangeOnlyByTheirWriters : Prop :=
  ∀ (i : Instr) (s t : State), exec i s = .next t →
    (match i with
      | .lda _ | .txa | .tya | .and _ | .eor _ | .ora _ | .asl .noneAddressing | .pla => True
      | _ => t.a = s.a) ∧
    (match i with
      | .ldx _ | .tax | .tsx | .inx | .dex => True
      | _ => t.x = s.x) ∧
    (match i with
      | .ldy _ | .tay | .iny | .dey => True
      | _ => t.y = s.y) ∧
    (match i with
      | .txs | .pla => True
      | _ => t.sp = s.sp) ∧
    t.pc = s.pc

/-- Which instructions may change each flag; none changes Break or Break2 (10_state.md R25 to R33). -/
def Obligations.FlagsChangeOnlyByTheirWriters : Prop :=
  ∀ (i : Instr) (s t : State), exec i s = .next t →
    (match i with
      | .asl _ | .clc | .sec => True
      | _ => t.p.c = s.p.c) ∧
    (match i with
      | .lda _ | .ldx _ | .ldy _ | .tax | .tay | .tsx | .txa | .tya | .inc _ | .dec _ | .inx | .iny
      | .dex | .dey | .and _ | .eor _ | .ora _ | .asl _ | .pla => True
      | _ => t.p.z = s.p.z ∧ t.p.n = s.p.n) ∧
    (match i with
      | .cli | .sei => True
      | _ => t.p.i = s.p.i) ∧
    (match i with
      | .cld | .sed => True
      | _ => t.p.d = s.p.d) ∧
    (match i with
      | .clv => t.p.v = false
      | _ => t.p.v = s.p.v) ∧
    t.p.b = s.p.b ∧ t.p.b2 = s.p.b2

/-- Memory's frame: a storing form changes no byte but the one at its effective address in the state the
handler runs in; every other form changes none (20_memory.md section 2, 41 to 45). -/
def Obligations.MemoryChangesOnlyAtTheStoredAddress : Prop :=
  ∀ (i : Instr) (s t : State), exec i s = .next t →
    match i with
    | .sta m | .stx m | .sty m | .inc m | .dec m | .asl m =>
      ∀ b, ea m s ≠ some b → t.memRead b = s.memRead b
    | _ => ∀ b, t.memRead b = s.memRead b

/-- The fault latch and the halt marker: a well-formed implemented instruction leaves the latch, and only
BRK ends a step Halted (40_engine_control.md R126, 60_exceptions.md R304; the marker is log 13). -/
def Obligations.LatchAndHaltChangeOnlyByTheirWriters : Prop :=
  ∀ (i : Instr) (s t : State), exec i s = .next t →
    (i.implemented = true → i.wf = true → t.fault = s.fault) ∧
    (i ≠ .brk → t.halted = s.halted) ∧
    (i = .brk → t.halted = true)

/-! ### Encoding -/

/-- Decode and encode agree: whatever the encoder gives, followed by any bytes, decodes to the same
instruction, the same operand bytes and those bytes; and the encoder accepts every well-formed
instruction with every value of its operand bytes (30_encoding.md R90 to R93). That an unrecognized byte
is an instruction of one byte is log 23 (DESIGN CHOICE). -/
def Obligations.DecodeOfEncodeIsTheInstruction : Prop :=
  (∀ (i : Instr) (operands bytes rest : List Byte), encode i operands = some bytes →
    decode (bytes ++ rest) = .ok ⟨i, operands, rest⟩) ∧
  (∀ (i : Instr) (operands : List Byte), i.wf = true → operands.length = i.operandCount →
    ∃ bytes, encode i operands = some bytes ∧ bytes.length = i.operandCount + 1)

/-- Every word has one meaning: what a byte list decodes to encodes to the bytes it was read from (the
lengths are those of 30_encoding.md R90 and R92), and the decoder refuses only a list too short for its
opcode. Which lists decode is the model's choice: that a short list is refused is log 24, and that an
unrecognized byte is an instruction of one byte is log 23 (each DESIGN CHOICE). -/
def Obligations.EncodeOfDecodeIsTheBytes : Prop :=
  (∀ (bytes : List Byte) (d : Decoded), decode bytes = .ok d →
    ∃ word, encode d.instr d.operands = some word ∧ bytes = word ++ d.rest) ∧
  (∀ bytes : List Byte, (∃ d, decode bytes = .ok d) ↔
    ∃ op rest, bytes = op :: rest ∧ lengthOf op ≤ rest.length + 1)

/-- An instruction's length is fixed by its mode, with the branches and JMP and JSR as the exceptions
(30_encoding.md R92). -/
def Obligations.LengthFollowsTheMode : Prop :=
  ∀ d ∈ opcodeTable,
    match d.instr with
    | .bcc | .bcs | .beq | .bmi | .bne | .bpl | .bvc | .bvs => d.length = 2
    | .jmp _ | .jsr => d.length = 3
    | i =>
      match i.mode with
      | .noneAddressing => d.length = 1
      | .immediate | .zeroPage | .zeroPageX | .zeroPageY | .indirectX | .indirectY => d.length = 2
      | .absolute | .absoluteX | .absoluteY => d.length = 3

/-- The counts of the default table (30_encoding.md R95, decision D1, log 1): 151 rows with distinct
bytes, 88 of them implemented, 63 not, and 105 bytes without a row. -/
def Obligations.OpcodeTableCounts : Prop :=
  opcodeTable.length = 151 ∧ (opcodeTable.map (·.byte)).Nodup ∧
  (opcodeTable.filter fun d => d.instr.implemented).length = 88 ∧
  (opcodeTable.filter fun d => !d.instr.implemented).length = 63 ∧
  unrecognizedBytes.length = 105

/-- Words written out from the spec's encodings decode to their instructions (30_encoding.md R90, R95):
one of each family, with operand bytes in place. That 0x02 decodes to an instruction of one byte is the
model's choice: the spec gives such a byte no length (log 23, DESIGN CHOICE). -/
def Obligations.SampleWordsDecode : Prop :=
  decode [0b00000000] = .ok ⟨.brk, [], []⟩ ∧
  decode [0b10101001, 0x05] = .ok ⟨.lda .immediate, [0x05], []⟩ ∧
  decode [0b10001101, 0x34, 0x12] = .ok ⟨.sta .absolute, [0x34, 0x12], []⟩ ∧
  decode [0b10101010] = .ok ⟨.tax, [], []⟩ ∧
  decode [0b11000110, 0x87] = .ok ⟨.dec .zeroPage, [0x87], []⟩ ∧
  decode [0b00100101, 0x87] = .ok ⟨.and .zeroPage, [0x87], []⟩ ∧
  decode [0b00001010] = .ok ⟨.asl .noneAddressing, [], []⟩ ∧
  decode [0b01101000] = .ok ⟨.pla, [], []⟩ ∧
  decode [0b01101001, 0x01] = .ok ⟨.adc .immediate, [0x01], []⟩ ∧
  decode [0b01101100, 0x00, 0x90] = .ok ⟨.jmp .indirect, [0x00, 0x90], []⟩ ∧
  decode [0b00000010, 0xFF] = .ok ⟨.unrecognized 0x02, [], [0xFF]⟩

/-! ### Invariants and whole-machine rules -/

/-- Every step keeps the invariant: canonical memory; Break, Break2 and Overflow clear; and a set latch
agrees with PC, memory and the table, so a fault is precise (10_state.md R29, R30, R32, 60_exceptions.md
R300 to R303, R310). Memory's form is log 27 and the field halted is log 13 (each DESIGN CHOICE). -/
def Obligations.StepKeepsTheInvariant : Prop :=
  ∀ s t : State, s.Inv → step s = .next t → t.Inv

/-- The invariant holds after reset: of `State.reset`, and of a reset from any state whose memory is
canonical. Memory's form is log 27, and that reset clears halted is log 26 (each DESIGN CHOICE). -/
def Obligations.ResetMeetsTheInvariant : Prop :=
  State.reset.Inv ∧ ∀ s : State, s.mem.wf → s.doReset.Inv

/-- Whatever the host does between steps, memory stays canonical, and Break, Break2 and Overflow stay
clear. Memory's form is log 27 (DESIGN CHOICE). -/
def Obligations.HostActionsKeepMemoryAndFlags : Prop :=
  ∀ (s : State) (act : HostAction),
    (s.mem.wf → (s.hostAct act).1.mem.wf) ∧
    (s.p.unsetFlagsClear → (s.hostAct act).1.p.unsetFlagsClear)

/-- Break2 is 0 in every state reached from reset, by any actions of the host (10_state.md R30). -/
def Obligations.Break2IsNeverSetAfterReset : Prop :=
  (∀ s : State, s.doReset.p.b2 = false) ∧ ∀ s : State, ReachedFromReset s → s.p.b2 = false

/-- Break and Overflow are 0 in every state reached from reset, by any actions of the host; the spec marks
this as derived from its rules (10_state.md R29, R32). -/
def Obligations.BreakAndOverflowAreNeverSetAfterReset : Prop :=
  ∀ s : State, ReachedFromReset s → s.p.b = false ∧ s.p.v = false

/-- Flags are written only: two runs from states that differ in the status register alone go the same
way and stay equal in everything else, for any number of steps (10_state.md R34). -/
def Obligations.FlagsNeverInfluenceARun : Prop :=
  ∀ (n : Nat) (s t : State), SameButFlags s t → RunsAgreeButFlags (runFor n s) (runFor n t)

/-! ### The host interface -/

/-- `load` (70_reset_and_hazards.md R343, R344): a program that fits lands at 0x8000, the vector is
written after it and holds 0x8000, every other byte and everything beside memory is as it was; one that
does not fit writes nothing. The origin and the vector's address are decisions D7 and D6, and the refusal
and the order are D15 (logs 6, 7, 14). -/
def Obligations.LoadPlacesProgramAndVector : Prop :=
  (∀ (s : State) (program : List Byte), program.length ≤ 0x8000 →
    (hostLoad program s).2 = .ok ∧
    (hostLoad program s).1.memRead 0xFFFC#16 = 0x00#8 ∧
    (hostLoad program s).1.memRead 0xFFFD#16 = 0x80#8 ∧
    (∀ (k : Nat) (hk : k < program.length), k ≠ 0x7FFC → k ≠ 0x7FFD →
      (hostLoad program s).1.memRead (0x8000#16 + BitVec.ofNat 16 k) = program[k]) ∧
    (∀ b : Addr, b ≠ 0xFFFC#16 → b ≠ 0xFFFD#16 →
      b.toNat < 0x8000 ∨ 0x8000 + program.length ≤ b.toNat →
      (hostLoad program s).1.memRead b = s.memRead b) ∧
    (hostLoad program s).1 = { s with mem := (hostLoad program s).1.mem }) ∧
  (∀ (s : State) (program : List Byte), 0x8000 < program.length →
    hostLoad program s = (s, .loadOverflow))

/-- Load, then reset, starts at the program's first byte with the reset registers
(70_reset_and_hazards.md R345, R360; the origin is decision D7, log 7), and `load_and_run` runs from
there, unless the load was refused. -/
def Obligations.LoadThenResetStartsAtTheProgram : Prop :=
  ∀ (s : State) (program : List Byte) (n : Nat),
    (program.length ≤ 0x8000 →
      (hostLoad program s).1.doReset.pc = 0x8000#16 ∧
      (∀ h : 0 < program.length, (hostLoad program s).1.doReset.memRead 0x8000#16 = program[0]) ∧
      (hostLoad program s).1.doReset.fault = none ∧
      loadAndRunFor n program s = some (runFor n (hostLoad program s).1.doReset)) ∧
    (0x8000 < program.length → loadAndRunFor n program s = none)

/-- `run()` is `step()` repeated (70_reset_and_hazards.md R346, R347, 40_engine_control.md R125): a run
ends in a state exactly where a watched run of some length ends in it. The two forms of a run are log 30
(DESIGN CHOICE). -/
def Obligations.RunIsRepeatedStep : Prop :=
  ∀ s t : State, RunEnds s t ↔ ∃ n, runFor n s = .ended t

/-- A run ends Halted or Faulted (70_reset_and_hazards.md R354, 60_exceptions.md R313): a halted end has
no fault and the last byte fetched was 0x00; a faulted end has its latch set and is no successful end. That
the outcome is read from the latch and from halted is log 13 (DESIGN CHOICE). -/
def Obligations.RunEndsHaltedOrFaulted : Prop :=
  ∀ s t : State, RunEnds s t →
    (t.successfulEnd ∧ t.fault = none ∧ t.memRead (t.pc - 1#16) = 0x00#8) ∨
    (t.finalFaulted ∧ ¬ t.successfulEnd ∧
      ∃ r, t.fault = some r ∧ t.pc = r.addr + 1#16 ∧ t.memRead r.addr = r.opcode)

/-- A run need not end (40_engine_control.md R142): over 65536 bytes of 0xEA it never does, from any PC
and with any registers. -/
def Obligations.NopMemoryRunsForever : Prop :=
  ∀ s : State, s.fault = none → (∀ b, s.memRead b = 0xEA#8) → NeverEnds s
end

