-- ==== Sys2Proof/Laws/Bits.lean ====
section
/-! SUPPORT. Laws of the byte and word helpers. -/

namespace Sys2Proof.Machine

@[simp] theorem lowByte_wordOf (lo hi : Byte) : lowByte (wordOf lo hi) = lo := by
  apply BitVec.eq_of_getLsbD_eq
  intro i hi8
  simp [lowByte, wordOf, hi8, show i < 16 by omega]

@[simp] theorem highByte_wordOf (lo hi : Byte) : highByte (wordOf lo hi) = hi := by
  apply BitVec.eq_of_getLsbD_eq
  intro i hi8
  simp [highByte, wordOf, hi8, show 8 + i < 16 by omega]

@[simp] theorem wordOf_lowByte_highByte (v : Addr) : wordOf (lowByte v) (highByte v) = v := by
  apply BitVec.eq_of_getLsbD_eq
  intro i hi16
  by_cases h : i < 8
  · simp [lowByte, highByte, wordOf, h, hi16]
  · simp [lowByte, highByte, wordOf, h, hi16, show i - 8 < 8 by omega,
      show 8 + (i - 8) = i by omega]

theorem wordOf_eq_append (lo hi : Byte) : wordOf lo hi = (hi ++ lo : BitVec (8 + 8)) := by
  apply BitVec.eq_of_getLsbD_eq
  intro i hi16
  rw [BitVec.getLsbD_append]
  by_cases h : i < 8
  · simp [wordOf, h, hi16]
  · simp [wordOf, h, hi16, BitVec.getLsbD_of_ge lo i (by omega)]

@[simp] theorem zext16_toNat (b : Byte) : (zext16 b).toNat = b.toNat := by
  have := b.isLt
  simp [zext16]
  omega

end Sys2Proof.Machine
end

