-- ==== Sys2Proof/Laws/Decode.lean ====
section
/-! SUPPORT. Laws of the opcode table and of the decoder: each row is checked once, and the rows and the
unrecognized bytes together are the 256 byte values. -/

namespace Sys2Proof

/-! ### The rows -/

theorem mem_of_lookup {table : OpcodeTable} {op : Byte} {d : Descriptor}
    (h : lookup table op = some d) : d ∈ table ∧ d.byte = op :=
  ⟨List.mem_of_find?_eq_some h, by simpa using List.find?_some h⟩

theorem row_wf : ∀ d ∈ opcodeTable, d.instr.wf = true := by decide +kernel

theorem row_opcodeOf : ∀ d ∈ opcodeTable, opcodeOf d.instr = some d.byte := by decide +kernel

theorem row_length : ∀ d ∈ opcodeTable, d.length = d.instr.operandCount + 1 := by decide +kernel

theorem row_recognized : ∀ d ∈ opcodeTable, ∀ b, d.instr ≠ .unrecognized b := by
  have h : ∀ d ∈ opcodeTable,
      (match d.instr with | .unrecognized _ => false | _ => true) = true := by decide +kernel
  intro d hd b e
  simpa [e] using h d hd

theorem byte_covered (op : Byte) :
    op ∈ unrecognizedBytes ∨ ∃ d ∈ opcodeTable, d.byte = op := by
  have h : ∀ n, n < 256 → (unrecognizedBytes.any (fun b => b.toNat == n) ||
      opcodeTable.any (fun d => d.byte.toNat == n)) = true := by decide +kernel
  have := h op.toNat op.isLt
  simpa [BitVec.toNat_inj] using this

theorem unrecognized_no_row : ∀ d ∈ opcodeTable, d.byte ∉ unrecognizedBytes := by
  have h : (opcodeTable.all fun d =>
      unrecognizedBytes.all fun b => !(b.toNat == d.byte.toNat)) = true := by decide +kernel
  intro d hd hb
  have := List.all_eq_true.mp (List.all_eq_true.mp h d hd) _ hb
  simp at this

/-! ### Lookup and decode of one byte -/

theorem lookup_eq_none_iff (op : Byte) : lookup opcodeTable op = none ↔ op ∈ unrecognizedBytes := by
  constructor
  · intro h
    rcases byte_covered op with hb | ⟨d, hd, hop⟩
    · exact hb
    · have := List.find?_eq_none.mp h d hd
      simp [hop] at this
  · intro hb
    refine List.find?_eq_none.mpr fun d hd => ?_
    have : d.byte ≠ op := fun e => unrecognized_no_row d hd (e ▸ hb)
    simpa using this

/-- A byte decodes to its row, or is one of the unrecognized bytes. -/
theorem descriptorOf_cases (op : Byte) :
    (∃ d, d ∈ opcodeTable ∧ d.byte = op ∧ lookup opcodeTable op = some d ∧
      descriptorOf opcodeTable op = d) ∨
    (op ∈ unrecognizedBytes ∧ lookup opcodeTable op = none ∧
      descriptorOf opcodeTable op = ⟨op, .unrecognized op, 1⟩) := by
  cases h : lookup opcodeTable op with
  | some d =>
    exact .inl ⟨d, (mem_of_lookup h).1, (mem_of_lookup h).2, rfl, by simp [descriptorOf, h]⟩
  | none => exact .inr ⟨(lookup_eq_none_iff op).mp h, rfl, by simp [descriptorOf, h]⟩

theorem decodeOpcode_wf (op : Byte) : (decodeOpcode op).wf = true := by
  rcases descriptorOf_cases op with ⟨d, hd, -, -, he⟩ | ⟨hb, -, he⟩
  · simpa [decodeOpcode, he] using row_wf d hd
  · simpa [decodeOpcode, he, Instr.wf, Instr.allowedModes, Instr.mode] using hb

theorem opcodeOf_decodeOpcode (op : Byte) : opcodeOf (decodeOpcode op) = some op := by
  rcases descriptorOf_cases op with ⟨d, hd, hop, -, he⟩ | ⟨hb, -, he⟩
  · rw [decodeOpcode, he, row_opcodeOf d hd, hop]
  · simpa [decodeOpcode, he, opcodeOf] using hb

theorem lengthOf_eq (op : Byte) : lengthOf op = (decodeOpcode op).operandCount + 1 := by
  rcases descriptorOf_cases op with ⟨d, hd, -, -, he⟩ | ⟨-, -, he⟩
  · rw [lengthOf, decodeOpcode, he, row_length d hd]
  · simp [lengthOf, decodeOpcode, he, Instr.operandCount, Instr.mode, Mode.operandCount]

end Sys2Proof
end

