-- ==== Sys2Proof/Laws/State.lean ====
section
/-! SUPPORT. One lemma per field per named update of the state, so that no proof unfolds a record
update. -/

namespace Sys2Proof.Machine

/-! ### memWrite -/

@[simp] theorem State.memWrite_a (s : State) (addr : Addr) (v : Byte) :
    (s.memWrite addr v).a = s.a := rfl

@[simp] theorem State.memWrite_x (s : State) (addr : Addr) (v : Byte) :
    (s.memWrite addr v).x = s.x := rfl

@[simp] theorem State.memWrite_y (s : State) (addr : Addr) (v : Byte) :
    (s.memWrite addr v).y = s.y := rfl

@[simp] theorem State.memWrite_sp (s : State) (addr : Addr) (v : Byte) :
    (s.memWrite addr v).sp = s.sp := rfl

@[simp] theorem State.memWrite_pc (s : State) (addr : Addr) (v : Byte) :
    (s.memWrite addr v).pc = s.pc := rfl

@[simp] theorem State.memWrite_p (s : State) (addr : Addr) (v : Byte) :
    (s.memWrite addr v).p = s.p := rfl

@[simp] theorem State.memWrite_mem (s : State) (addr : Addr) (v : Byte) :
    (s.memWrite addr v).mem = s.mem.write addr v := rfl

@[simp] theorem State.memWrite_fault (s : State) (addr : Addr) (v : Byte) :
    (s.memWrite addr v).fault = s.fault := rfl

@[simp] theorem State.memWrite_halted (s : State) (addr : Addr) (v : Byte) :
    (s.memWrite addr v).halted = s.halted := rfl

/-! ### setZN -/

@[simp] theorem State.setZN_a (s : State) (v : Byte) :
    (s.setZN v).a = s.a := rfl

@[simp] theorem State.setZN_x (s : State) (v : Byte) :
    (s.setZN v).x = s.x := rfl

@[simp] theorem State.setZN_y (s : State) (v : Byte) :
    (s.setZN v).y = s.y := rfl

@[simp] theorem State.setZN_sp (s : State) (v : Byte) :
    (s.setZN v).sp = s.sp := rfl

@[simp] theorem State.setZN_pc (s : State) (v : Byte) :
    (s.setZN v).pc = s.pc := rfl

@[simp] theorem State.setZN_p (s : State) (v : Byte) :
    (s.setZN v).p = s.p.setZN v := rfl

@[simp] theorem State.setZN_mem (s : State) (v : Byte) :
    (s.setZN v).mem = s.mem := rfl

@[simp] theorem State.setZN_fault (s : State) (v : Byte) :
    (s.setZN v).fault = s.fault := rfl

@[simp] theorem State.setZN_halted (s : State) (v : Byte) :
    (s.setZN v).halted = s.halted := rfl

/-! ### writeFlag -/

@[simp] theorem State.writeFlag_a (s : State) (f : Flag) (b : Bool) :
    (s.writeFlag f b).a = s.a := rfl

@[simp] theorem State.writeFlag_x (s : State) (f : Flag) (b : Bool) :
    (s.writeFlag f b).x = s.x := rfl

@[simp] theorem State.writeFlag_y (s : State) (f : Flag) (b : Bool) :
    (s.writeFlag f b).y = s.y := rfl

@[simp] theorem State.writeFlag_sp (s : State) (f : Flag) (b : Bool) :
    (s.writeFlag f b).sp = s.sp := rfl

@[simp] theorem State.writeFlag_pc (s : State) (f : Flag) (b : Bool) :
    (s.writeFlag f b).pc = s.pc := rfl

@[simp] theorem State.writeFlag_p (s : State) (f : Flag) (b : Bool) :
    (s.writeFlag f b).p = s.p.writeFlag f b := rfl

@[simp] theorem State.writeFlag_mem (s : State) (f : Flag) (b : Bool) :
    (s.writeFlag f b).mem = s.mem := rfl

@[simp] theorem State.writeFlag_fault (s : State) (f : Flag) (b : Bool) :
    (s.writeFlag f b).fault = s.fault := rfl

@[simp] theorem State.writeFlag_halted (s : State) (f : Flag) (b : Bool) :
    (s.writeFlag f b).halted = s.halted := rfl

/-! ### setReg a -/

@[simp] theorem State.setReg_a_a (s : State) (v : Byte) :
    (s.setReg .a v).a = v := rfl

@[simp] theorem State.setReg_a_x (s : State) (v : Byte) :
    (s.setReg .a v).x = s.x := rfl

@[simp] theorem State.setReg_a_y (s : State) (v : Byte) :
    (s.setReg .a v).y = s.y := rfl

@[simp] theorem State.setReg_a_sp (s : State) (v : Byte) :
    (s.setReg .a v).sp = s.sp := rfl

@[simp] theorem State.setReg_a_pc (s : State) (v : Byte) :
    (s.setReg .a v).pc = s.pc := rfl

@[simp] theorem State.setReg_a_p (s : State) (v : Byte) :
    (s.setReg .a v).p = s.p := rfl

@[simp] theorem State.setReg_a_mem (s : State) (v : Byte) :
    (s.setReg .a v).mem = s.mem := rfl

@[simp] theorem State.setReg_a_fault (s : State) (v : Byte) :
    (s.setReg .a v).fault = s.fault := rfl

@[simp] theorem State.setReg_a_halted (s : State) (v : Byte) :
    (s.setReg .a v).halted = s.halted := rfl

/-! ### setReg x -/

@[simp] theorem State.setReg_x_a (s : State) (v : Byte) :
    (s.setReg .x v).a = s.a := rfl

@[simp] theorem State.setReg_x_x (s : State) (v : Byte) :
    (s.setReg .x v).x = v := rfl

@[simp] theorem State.setReg_x_y (s : State) (v : Byte) :
    (s.setReg .x v).y = s.y := rfl

@[simp] theorem State.setReg_x_sp (s : State) (v : Byte) :
    (s.setReg .x v).sp = s.sp := rfl

@[simp] theorem State.setReg_x_pc (s : State) (v : Byte) :
    (s.setReg .x v).pc = s.pc := rfl

@[simp] theorem State.setReg_x_p (s : State) (v : Byte) :
    (s.setReg .x v).p = s.p := rfl

@[simp] theorem State.setReg_x_mem (s : State) (v : Byte) :
    (s.setReg .x v).mem = s.mem := rfl

@[simp] theorem State.setReg_x_fault (s : State) (v : Byte) :
    (s.setReg .x v).fault = s.fault := rfl

@[simp] theorem State.setReg_x_halted (s : State) (v : Byte) :
    (s.setReg .x v).halted = s.halted := rfl

/-! ### setReg y -/

@[simp] theorem State.setReg_y_a (s : State) (v : Byte) :
    (s.setReg .y v).a = s.a := rfl

@[simp] theorem State.setReg_y_x (s : State) (v : Byte) :
    (s.setReg .y v).x = s.x := rfl

@[simp] theorem State.setReg_y_y (s : State) (v : Byte) :
    (s.setReg .y v).y = v := rfl

@[simp] theorem State.setReg_y_sp (s : State) (v : Byte) :
    (s.setReg .y v).sp = s.sp := rfl

@[simp] theorem State.setReg_y_pc (s : State) (v : Byte) :
    (s.setReg .y v).pc = s.pc := rfl

@[simp] theorem State.setReg_y_p (s : State) (v : Byte) :
    (s.setReg .y v).p = s.p := rfl

@[simp] theorem State.setReg_y_mem (s : State) (v : Byte) :
    (s.setReg .y v).mem = s.mem := rfl

@[simp] theorem State.setReg_y_fault (s : State) (v : Byte) :
    (s.setReg .y v).fault = s.fault := rfl

@[simp] theorem State.setReg_y_halted (s : State) (v : Byte) :
    (s.setReg .y v).halted = s.halted := rfl

/-! ### setReg sp -/

@[simp] theorem State.setReg_sp_a (s : State) (v : Byte) :
    (s.setReg .sp v).a = s.a := rfl

@[simp] theorem State.setReg_sp_x (s : State) (v : Byte) :
    (s.setReg .sp v).x = s.x := rfl

@[simp] theorem State.setReg_sp_y (s : State) (v : Byte) :
    (s.setReg .sp v).y = s.y := rfl

@[simp] theorem State.setReg_sp_sp (s : State) (v : Byte) :
    (s.setReg .sp v).sp = v := rfl

@[simp] theorem State.setReg_sp_pc (s : State) (v : Byte) :
    (s.setReg .sp v).pc = s.pc := rfl

@[simp] theorem State.setReg_sp_p (s : State) (v : Byte) :
    (s.setReg .sp v).p = s.p := rfl

@[simp] theorem State.setReg_sp_mem (s : State) (v : Byte) :
    (s.setReg .sp v).mem = s.mem := rfl

@[simp] theorem State.setReg_sp_fault (s : State) (v : Byte) :
    (s.setReg .sp v).fault = s.fault := rfl

@[simp] theorem State.setReg_sp_halted (s : State) (v : Byte) :
    (s.setReg .sp v).halted = s.halted := rfl

/-! ### raise -/

@[simp] theorem State.raise_a (s : State) (k : FaultKind) :
    (s.raise k).a = s.a := rfl

@[simp] theorem State.raise_x (s : State) (k : FaultKind) :
    (s.raise k).x = s.x := rfl

@[simp] theorem State.raise_y (s : State) (k : FaultKind) :
    (s.raise k).y = s.y := rfl

@[simp] theorem State.raise_sp (s : State) (k : FaultKind) :
    (s.raise k).sp = s.sp := rfl

@[simp] theorem State.raise_pc (s : State) (k : FaultKind) :
    (s.raise k).pc = s.pc := rfl

@[simp] theorem State.raise_p (s : State) (k : FaultKind) :
    (s.raise k).p = s.p := rfl

@[simp] theorem State.raise_mem (s : State) (k : FaultKind) :
    (s.raise k).mem = s.mem := rfl

@[simp] theorem State.raise_fault (s : State) (k : FaultKind) :
    (s.raise k).fault = some ⟨k, s.memRead (s.pc - 1#16), s.pc - 1#16⟩ := rfl

@[simp] theorem State.raise_halted (s : State) (k : FaultKind) :
    (s.raise k).halted = s.halted := rfl

/-! ### halt -/

@[simp] theorem State.halt_a (s : State) :
    (s.halt).a = s.a := rfl

@[simp] theorem State.halt_x (s : State) :
    (s.halt).x = s.x := rfl

@[simp] theorem State.halt_y (s : State) :
    (s.halt).y = s.y := rfl

@[simp] theorem State.halt_sp (s : State) :
    (s.halt).sp = s.sp := rfl

@[simp] theorem State.halt_pc (s : State) :
    (s.halt).pc = s.pc := rfl

@[simp] theorem State.halt_p (s : State) :
    (s.halt).p = s.p := rfl

@[simp] theorem State.halt_mem (s : State) :
    (s.halt).mem = s.mem := rfl

@[simp] theorem State.halt_fault (s : State) :
    (s.halt).fault = s.fault := rfl

@[simp] theorem State.halt_halted (s : State) :
    (s.halt).halted = true := rfl

/-! ### doReset -/

@[simp] theorem State.doReset_a (s : State) :
    (s.doReset).a = 0x00#8 := rfl

@[simp] theorem State.doReset_x (s : State) :
    (s.doReset).x = 0x00#8 := rfl

@[simp] theorem State.doReset_y (s : State) :
    (s.doReset).y = 0x00#8 := rfl

@[simp] theorem State.doReset_sp (s : State) :
    (s.doReset).sp = Params.spReset := rfl

@[simp] theorem State.doReset_pc (s : State) :
    (s.doReset).pc = s.memRead16 Params.resetVector := rfl

@[simp] theorem State.doReset_p (s : State) :
    (s.doReset).p = Status.ofByte Params.statusReset := rfl

@[simp] theorem State.doReset_mem (s : State) :
    (s.doReset).mem = s.mem := rfl

@[simp] theorem State.doReset_fault (s : State) :
    (s.doReset).fault = none := rfl

@[simp] theorem State.doReset_halted (s : State) :
    (s.doReset).halted = false := rfl

/-! ### fetched -/

@[simp] theorem State.fetched_a (s : State) :
    (s.fetched).a = s.a := rfl

@[simp] theorem State.fetched_x (s : State) :
    (s.fetched).x = s.x := rfl

@[simp] theorem State.fetched_y (s : State) :
    (s.fetched).y = s.y := rfl

@[simp] theorem State.fetched_sp (s : State) :
    (s.fetched).sp = s.sp := rfl

@[simp] theorem State.fetched_pc (s : State) :
    (s.fetched).pc = s.pc + 1#16 := rfl

@[simp] theorem State.fetched_p (s : State) :
    (s.fetched).p = s.p := rfl

@[simp] theorem State.fetched_mem (s : State) :
    (s.fetched).mem = s.mem := rfl

@[simp] theorem State.fetched_fault (s : State) :
    (s.fetched).fault = s.fault := rfl

@[simp] theorem State.fetched_halted (s : State) :
    (s.fetched).halted = false := rfl

/-! ### advance -/

@[simp] theorem State.advance_a (s : State) (n : Nat) :
    (s.advance n).a = s.a := rfl

@[simp] theorem State.advance_x (s : State) (n : Nat) :
    (s.advance n).x = s.x := rfl

@[simp] theorem State.advance_y (s : State) (n : Nat) :
    (s.advance n).y = s.y := rfl

@[simp] theorem State.advance_sp (s : State) (n : Nat) :
    (s.advance n).sp = s.sp := rfl

@[simp] theorem State.advance_pc (s : State) (n : Nat) :
    (s.advance n).pc = s.pc + BitVec.ofNat 16 (n - 1) := rfl

@[simp] theorem State.advance_p (s : State) (n : Nat) :
    (s.advance n).p = s.p := rfl

@[simp] theorem State.advance_mem (s : State) (n : Nat) :
    (s.advance n).mem = s.mem := rfl

@[simp] theorem State.advance_fault (s : State) (n : Nat) :
    (s.advance n).fault = s.fault := rfl

@[simp] theorem State.advance_halted (s : State) (n : Nat) :
    (s.advance n).halted = s.halted := rfl

/-! ### push -/

@[simp] theorem State.push_a (s : State) (v : Byte) :
    (s.push v).a = s.a := rfl

@[simp] theorem State.push_x (s : State) (v : Byte) :
    (s.push v).x = s.x := rfl

@[simp] theorem State.push_y (s : State) (v : Byte) :
    (s.push v).y = s.y := rfl

@[simp] theorem State.push_sp (s : State) (v : Byte) :
    (s.push v).sp = s.sp - 1#8 := rfl

@[simp] theorem State.push_pc (s : State) (v : Byte) :
    (s.push v).pc = s.pc := rfl

@[simp] theorem State.push_p (s : State) (v : Byte) :
    (s.push v).p = s.p := rfl

@[simp] theorem State.push_mem (s : State) (v : Byte) :
    (s.push v).mem = s.mem.write (stackAddr s.sp) v := rfl

@[simp] theorem State.push_fault (s : State) (v : Byte) :
    (s.push v).fault = s.fault := rfl

@[simp] theorem State.push_halted (s : State) (v : Byte) :
    (s.push v).halted = s.halted := rfl

/-! ### pop -/

@[simp] theorem State.pop_a (s : State) :
    (s.pop.2).a = s.a := rfl

@[simp] theorem State.pop_x (s : State) :
    (s.pop.2).x = s.x := rfl

@[simp] theorem State.pop_y (s : State) :
    (s.pop.2).y = s.y := rfl

@[simp] theorem State.pop_sp (s : State) :
    (s.pop.2).sp = s.sp + 1#8 := rfl

@[simp] theorem State.pop_pc (s : State) :
    (s.pop.2).pc = s.pc := rfl

@[simp] theorem State.pop_p (s : State) :
    (s.pop.2).p = s.p := rfl

@[simp] theorem State.pop_mem (s : State) :
    (s.pop.2).mem = s.mem := rfl

@[simp] theorem State.pop_fault (s : State) :
    (s.pop.2).fault = s.fault := rfl

@[simp] theorem State.pop_halted (s : State) :
    (s.pop.2).halted = s.halted := rfl

@[simp] theorem State.pop_byte (s : State) : s.pop.1 = s.memRead (stackAddr (s.sp + 1#8)) := rfl

/-! ### setReg, for any register -/

@[simp] theorem State.setReg_any_pc (s : State) (r : Reg) (v : Byte) : (s.setReg r v).pc = s.pc := by
  cases r <;> rfl

@[simp] theorem State.setReg_any_p (s : State) (r : Reg) (v : Byte) : (s.setReg r v).p = s.p := by
  cases r <;> rfl

@[simp] theorem State.setReg_any_mem (s : State) (r : Reg) (v : Byte) : (s.setReg r v).mem = s.mem := by
  cases r <;> rfl

@[simp] theorem State.setReg_any_fault (s : State) (r : Reg) (v : Byte) : (s.setReg r v).fault = s.fault := by
  cases r <;> rfl

@[simp] theorem State.setReg_any_halted (s : State) (r : Reg) (v : Byte) : (s.setReg r v).halted = s.halted := by
  cases r <;> rfl

/-! ### Reading memory through an update -/

theorem State.memRead_eq (s : State) (addr : Addr) : s.memRead addr = s.mem.read addr := rfl

/-- Reading depends on memory alone. -/
theorem State.memRead_congr {s t : State} (h : s.mem = t.mem) (addr : Addr) :
    s.memRead addr = t.memRead addr := by
  rw [State.memRead_eq, State.memRead_eq, h]

/-! ### The status register -/

@[simp] theorem Status.setZN_z (p : Status) (v : Byte) : (p.setZN v).z = (v == 0x00#8) := rfl

@[simp] theorem Status.setZN_n (p : Status) (v : Byte) : (p.setZN v).n = (v.getLsbD 7) := rfl

@[simp] theorem Status.setZN_c (p : Status) (v : Byte) : (p.setZN v).c = p.c := rfl

@[simp] theorem Status.setZN_i (p : Status) (v : Byte) : (p.setZN v).i = p.i := rfl

@[simp] theorem Status.setZN_d (p : Status) (v : Byte) : (p.setZN v).d = p.d := rfl

@[simp] theorem Status.setZN_b (p : Status) (v : Byte) : (p.setZN v).b = p.b := rfl

@[simp] theorem Status.setZN_b2 (p : Status) (v : Byte) : (p.setZN v).b2 = p.b2 := rfl

@[simp] theorem Status.setZN_v (p : Status) (v : Byte) : (p.setZN v).v = p.v := rfl

@[simp] theorem Status.writeFlag_z (p : Status) (f : Flag) (b : Bool) :
    (p.writeFlag f b).z = p.z := by
  cases f <;> rfl

@[simp] theorem Status.writeFlag_n (p : Status) (f : Flag) (b : Bool) :
    (p.writeFlag f b).n = p.n := by
  cases f <;> rfl

@[simp] theorem Status.writeFlag_b (p : Status) (f : Flag) (b : Bool) :
    (p.writeFlag f b).b = p.b := by
  cases f <;> rfl

@[simp] theorem Status.writeFlag_b2 (p : Status) (f : Flag) (b : Bool) :
    (p.writeFlag f b).b2 = p.b2 := by
  cases f <;> rfl

/-- SetZN with bit 7 as the most significant bit. -/
theorem Status.setZN_eq (p : Status) (v : Byte) :
    p.setZN v = { p with z := decide (v = 0x00#8), n := v.msb } := by
  rw [Status.setZN, BitVec.msb_eq_getLsbD_last]
  rfl

/-! ### The outcome -/

theorem State.outcome_continued_iff (s : State) :
    s.outcome = .continued ↔ s.fault = none ∧ s.halted = false := by
  unfold State.outcome
  cases s.fault <;> cases s.halted <;> simp

theorem State.outcome_halted_iff (s : State) :
    s.outcome = .halted ↔ s.fault = none ∧ s.halted = true := by
  unfold State.outcome
  cases s.fault <;> cases s.halted <;> simp

theorem State.outcome_faulted_iff (s : State) : s.outcome = .faulted ↔ s.fault ≠ none := by
  unfold State.outcome
  cases s.fault <;> cases s.halted <;> simp

end Sys2Proof.Machine
end

