-- ==== Sys2Proof/Laws/Operands.lean ====
section
/-! SUPPORT. One lemma per shared operation of Machine/Operands.lean: everything it can do. -/

namespace Sys2Proof.Machine

/-- Only NoneAddressing fails to resolve. -/
theorem ea_eq_none_iff (m : Mode) (s : State) : ea m s = none ↔ m = .noneAddressing := by
  cases m <;> simp [ea]

theorem ea_isSome {m : Mode} (h : m ≠ .noneAddressing) (s : State) : ∃ e, ea m s = some e :=
  Option.ne_none_iff_exists'.mp fun hn => h ((ea_eq_none_iff m s).mp hn)

/-- The effective address depends on PC, X, Y and memory alone. -/
theorem ea_congr {s t : State} (m : Mode) (hpc : s.pc = t.pc) (hx : s.x = t.x) (hy : s.y = t.y)
    (hm : s.mem = t.mem) : ea m s = ea m t := by
  cases m <;>
    simp [ea, State.memRead, State.memRead16, State.zeroPageWord, hpc, hx, hy, hm]

theorem withAddress_some {m : Mode} {s : State} {e : Addr} (h : ea m s = some e)
    (body : Addr → State) : withAddress m s body = .next (body e) := by
  simp [withAddress, h]

theorem withAddress_none (s : State) (body : Addr → State) :
    withAddress .noneAddressing s body = .next (s.raise .unsupportedAddressingMode) := rfl

/-- What an access to an operand in memory can do: run its body on the address, or fault. -/
theorem withAddress_cases (m : Mode) (s : State) (body : Addr → State) :
    (∃ e, ea m s = some e ∧ withAddress m s body = .next (body e)) ∨
      (m = .noneAddressing ∧
        withAddress m s body = .next (s.raise .unsupportedAddressingMode)) := by
  by_cases h : m = .noneAddressing
  · subst h
    exact .inr ⟨rfl, rfl⟩
  · obtain ⟨e, he⟩ := ea_isSome h s
    exact .inl ⟨e, he, withAddress_some he body⟩

/-- ASL on a memory operand. -/
theorem execAsl_memory {m : Mode} (h : m ≠ .noneAddressing) (s : State) :
    execAsl m s = withAddress m s fun e =>
      ((s.writeFlag .carry (shiftOut (s.memRead e))).memWrite e (shiftLeft (s.memRead e))).setZN
        (shiftLeft (s.memRead e)) := by
  cases m <;> first | rfl | exact absurd rfl h

/-- A stack address lies in the stack page. -/
theorem stackAddr_toNat (sp : Byte) : (stackAddr sp).toNat = 256 + sp.toNat := by
  have := sp.isLt
  simp only [stackAddr, Params.stackBase, BitVec.toNat_add, zext16_toNat, BitVec.toNat_ofNat]
  omega

theorem stackAddr_injective {sp sp' : Byte} (h : stackAddr sp = stackAddr sp') : sp = sp' := by
  have h' := congrArg BitVec.toNat h
  rw [stackAddr_toNat, stackAddr_toNat] at h'
  exact BitVec.eq_of_toNat_eq (by omega)

end Sys2Proof.Machine
end

