-- ==== Sys2Proof/Laws/Exec.lean ====
section
/-! SUPPORT. Everything a handler can do, said once for all instructions: fault with the state otherwise
as it was, or complete with PC and the fault latch as they were and at most one byte of memory
written. -/

namespace Sys2Proof.Machine

/-- What a completed handler leaves as it was. -/
structure Completed (i : Instr) (s t : State) : Prop where
  pc : t.pc = s.pc
  fault : t.fault = s.fault
  halted : t.halted = (s.halted || i == .brk)
  breakFlag : t.p.b = s.p.b
  break2Flag : t.p.b2 = s.p.b2
  overflow : t.p.v = s.p.v ∨ t.p.v = false
  memory : t.mem = s.mem ∨ ∃ e v, ea i.mode s = some e ∧ t.mem = s.mem.write e v

theorem loadReg_cases (i : Instr) (hi : i ≠ .brk) (r : Reg) (m : Mode) (s : State) :
    (∃ t, loadReg r m s = .next t ∧ Completed i s t) ∨
      (m = .noneAddressing ∧ loadReg r m s = .next (s.raise .unsupportedAddressingMode)) := by
  refine (withAddress_cases m s _).imp ?_ id
  rintro ⟨e, -, h⟩
  exact ⟨_, h, by constructor <;> simp [hi]⟩

theorem storeReg_cases (i : Instr) (hi : i ≠ .brk) (r : Reg) (s : State) :
    (∃ t, storeReg r i.mode s = .next t ∧ Completed i s t) ∨
      (i.mode = .noneAddressing ∧
        storeReg r i.mode s = .next (s.raise .unsupportedAddressingMode)) := by
  refine (withAddress_cases i.mode s _).imp ?_ id
  rintro ⟨e, he, h⟩
  exact ⟨_, h, by constructor <;> simp [hi]; exact .inr ⟨e, he, _, rfl⟩⟩

theorem modifyMem_cases (i : Instr) (hi : i ≠ .brk) (f : Byte → Byte) (s : State) :
    (∃ t, modifyMem f i.mode s = .next t ∧ Completed i s t) ∨
      (i.mode = .noneAddressing ∧
        modifyMem f i.mode s = .next (s.raise .unsupportedAddressingMode)) := by
  refine (withAddress_cases i.mode s _).imp ?_ id
  rintro ⟨e, he, h⟩
  exact ⟨_, h, by constructor <;> simp [hi]; exact .inr ⟨e, he, _, rfl⟩⟩

theorem combineA_cases (i : Instr) (hi : i ≠ .brk) (f : Byte → Byte → Byte) (m : Mode) (s : State) :
    (∃ t, combineA f m s = .next t ∧ Completed i s t) ∨
      (m = .noneAddressing ∧ combineA f m s = .next (s.raise .unsupportedAddressingMode)) := by
  refine (withAddress_cases m s _).imp ?_ id
  rintro ⟨e, -, h⟩
  exact ⟨_, h, by constructor <;> simp [hi]⟩

theorem execAsl_cases (m : Mode) (s : State) :
    ∃ t, execAsl m s = .next t ∧ Completed (.asl m) s t := by
  by_cases hm : m = .noneAddressing
  · subst hm
    exact ⟨_, rfl, by constructor <;> simp [Status.writeFlag]⟩
  · obtain ⟨e, he⟩ := ea_isSome hm s
    rw [execAsl_memory hm, withAddress_some he]
    refine ⟨_, rfl, ?_⟩
    constructor <;> simp [Status.writeFlag]
    exact .inr ⟨e, he, _, rfl⟩

/-- Everything `exec` can do. -/
theorem exec_cases (i : Instr) (s : State) :
    (∃ t, exec i s = .next t ∧ Completed i s t ∧ i.implemented = true) ∨
    (exec i s = .next (s.raise .unsupportedAddressingMode) ∧ i.implemented = true ∧
      i.mode = .noneAddressing ∧ i.wf = false) ∨
    (exec i s = .next (s.raise .unimplementedOpcode) ∧ i.implemented = false ∧
      ∀ op, i ≠ .unrecognized op) ∨
    (exec i s = .next (s.raise .unrecognizedOpcode) ∧ ∃ op, i = .unrecognized op) := by
  cases i
  case brk => exact .inl ⟨_, rfl, by constructor <;> simp, rfl⟩
  case nop => exact .inl ⟨_, rfl, by constructor <;> simp, rfl⟩
  case lda m =>
    rcases loadReg_cases (.lda m) (by simp) .a m s with ⟨t, h, hc⟩ | ⟨rfl, h⟩
    · exact .inl ⟨t, h, hc, rfl⟩
    · exact .inr (.inl ⟨h, rfl, rfl, rfl⟩)
  case ldx m =>
    rcases loadReg_cases (.ldx m) (by simp) .x m s with ⟨t, h, hc⟩ | ⟨rfl, h⟩
    · exact .inl ⟨t, h, hc, rfl⟩
    · exact .inr (.inl ⟨h, rfl, rfl, rfl⟩)
  case ldy m =>
    rcases loadReg_cases (.ldy m) (by simp) .y m s with ⟨t, h, hc⟩ | ⟨rfl, h⟩
    · exact .inl ⟨t, h, hc, rfl⟩
    · exact .inr (.inl ⟨h, rfl, rfl, rfl⟩)
  case sta m =>
    rcases storeReg_cases (.sta m) (by simp) .a s with ⟨t, h, hc⟩ | ⟨hm, h⟩
    · exact .inl ⟨t, h, hc, rfl⟩
    · exact .inr (.inl ⟨h, rfl, hm, by rw [show m = _ from hm]; rfl⟩)
  case stx m =>
    rcases storeReg_cases (.stx m) (by simp) .x s with ⟨t, h, hc⟩ | ⟨hm, h⟩
    · exact .inl ⟨t, h, hc, rfl⟩
    · exact .inr (.inl ⟨h, rfl, hm, by rw [show m = _ from hm]; rfl⟩)
  case sty m =>
    rcases storeReg_cases (.sty m) (by simp) .y s with ⟨t, h, hc⟩ | ⟨hm, h⟩
    · exact .inl ⟨t, h, hc, rfl⟩
    · exact .inr (.inl ⟨h, rfl, hm, by rw [show m = _ from hm]; rfl⟩)
  case inc m =>
    rcases modifyMem_cases (.inc m) (by simp) (· + 1#8) s with ⟨t, h, hc⟩ | ⟨hm, h⟩
    · exact .inl ⟨t, h, hc, rfl⟩
    · exact .inr (.inl ⟨h, rfl, hm, by rw [show m = _ from hm]; rfl⟩)
  case dec m =>
    rcases modifyMem_cases (.dec m) (by simp) (· - 1#8) s with ⟨t, h, hc⟩ | ⟨hm, h⟩
    · exact .inl ⟨t, h, hc, rfl⟩
    · exact .inr (.inl ⟨h, rfl, hm, by rw [show m = _ from hm]; rfl⟩)
  case and m =>
    rcases combineA_cases (.and m) (by simp) (· &&& ·) m s with ⟨t, h, hc⟩ | ⟨rfl, h⟩
    · exact .inl ⟨t, h, hc, rfl⟩
    · exact .inr (.inl ⟨h, rfl, rfl, rfl⟩)
  case eor m =>
    rcases combineA_cases (.eor m) (by simp) (· ^^^ ·) m s with ⟨t, h, hc⟩ | ⟨rfl, h⟩
    · exact .inl ⟨t, h, hc, rfl⟩
    · exact .inr (.inl ⟨h, rfl, rfl, rfl⟩)
  case ora m =>
    rcases combineA_cases (.ora m) (by simp) (· ||| ·) m s with ⟨t, h, hc⟩ | ⟨rfl, h⟩
    · exact .inl ⟨t, h, hc, rfl⟩
    · exact .inr (.inl ⟨h, rfl, rfl, rfl⟩)
  case asl m =>
    obtain ⟨t, h, hc⟩ := execAsl_cases m s
    exact .inl ⟨t, h, hc, rfl⟩
  case unrecognized op => exact .inr (.inr (.inr ⟨rfl, op, rfl⟩))
  case tax | tay | tsx | txa | tya | txs | inx | iny | dex | dey | clc | cld | cli | clv | sec | sed
    | sei =>
    exact .inl ⟨_, rfl, by constructor <;> simp [Status.writeFlag], rfl⟩
  case pla =>
    refine .inl ⟨_, rfl, ?_, rfl⟩
    constructor <;> simp [plaWith] <;> split <;> simp
  all_goals exact .inr (.inr (.inl ⟨rfl, rfl, by simp⟩))

end Sys2Proof.Machine
end

