-- ==== Sys2Proof/Laws/Memory.lean ====
section
/-! SUPPORT. Laws of memory: a read after a write, every other byte, and the canonical form. -/

namespace Sys2Proof.Machine

/-! ### Lookup through the list operations -/

@[simp] theorem Memory.find_erase_same (m : Memory) (n : Nat) :
    (m.erase n).find n = Params.memoryAtCreation := by
  induction m with
  | nil => rfl
  | cons c rest ih =>
    obtain ⟨k, v⟩ := c
    by_cases h : k = n <;> simp [Memory.erase, Memory.find, h, ih]

theorem Memory.find_erase_other (m : Memory) {n k : Nat} (h : k ≠ n) :
    (m.erase n).find k = m.find k := by
  induction m with
  | nil => rfl
  | cons c rest ih =>
    obtain ⟨j, v⟩ := c
    by_cases hj : j = n
    · have : ¬ j = k := fun e => h (e ▸ hj)
      simp only [Memory.erase, Memory.find, if_pos hj, if_neg this, ih]
    · rw [Memory.erase, if_neg hj, Memory.find, Memory.find, ih]

theorem Memory.find_insert_other (m : Memory) {n k : Nat} (v : Byte) (h : k ≠ n) :
    (m.insert n v).find k = m.find k := by
  induction m with
  | nil => simp [Memory.insert, Memory.find, Ne.symm h]
  | cons c rest ih =>
    obtain ⟨j, w⟩ := c
    by_cases hlt : n < j
    · simp [Memory.insert, Memory.find, hlt, Ne.symm h]
    · rw [Memory.insert, if_neg hlt, Memory.find, Memory.find, ih]

theorem Memory.find_insert_same (m : Memory) (n : Nat) (v : Byte) (h : ∀ c ∈ m, c.1 ≠ n) :
    (m.insert n v).find n = v := by
  induction m with
  | nil => simp [Memory.insert, Memory.find]
  | cons c rest ih =>
    obtain ⟨j, w⟩ := c
    have hj : j ≠ n := h (j, w) (by simp)
    have ih' := ih fun c hc => h c (by simp [hc])
    by_cases hlt : n < j <;> simp [Memory.insert, Memory.find, hlt, hj, ih']

theorem Memory.mem_erase {m : Memory} {n : Nat} {c : Host.Cell} (h : c ∈ m.erase n) :
    c ∈ m ∧ c.1 ≠ n := by
  induction m with
  | nil => simp [Memory.erase] at h
  | cons d rest ih =>
    obtain ⟨j, w⟩ := d
    by_cases hj : j = n
    · rw [Memory.erase, if_pos hj] at h
      exact ⟨List.mem_cons_of_mem _ (ih h).1, (ih h).2⟩
    · rw [Memory.erase, if_neg hj, List.mem_cons] at h
      rcases h with rfl | h
      · exact ⟨by simp, hj⟩
      · exact ⟨List.mem_cons_of_mem _ (ih h).1, (ih h).2⟩

theorem Memory.mem_insert {m : Memory} {n : Nat} {v : Byte} {c : Host.Cell}
    (h : c ∈ m.insert n v) : c = (n, v) ∨ c ∈ m := by
  induction m with
  | nil => simpa [Memory.insert] using h
  | cons d rest ih =>
    obtain ⟨j, w⟩ := d
    by_cases hlt : n < j
    · rw [Memory.insert, if_pos hlt] at h
      simpa using h
    · rw [Memory.insert, if_neg hlt, List.mem_cons] at h
      rcases h with rfl | h
      · simp
      · rcases ih h with h | h <;> simp [h]

/-! ### Read and write -/

@[simp] theorem Memory.read_write_same (m : Memory) (addr : Addr) (v : Byte) :
    (m.write addr v).read addr = v := by
  unfold Memory.write Memory.read
  split
  · next h => rw [Memory.find_erase_same, h]
  · exact Memory.find_insert_same _ _ _ fun c hc => (Memory.mem_erase hc).2

theorem Memory.read_write_other (m : Memory) {addr b : Addr} (v : Byte) (h : b ≠ addr) :
    (m.write addr v).read b = m.read b := by
  have hn : b.toNat ≠ addr.toNat := fun e => h (BitVec.eq_of_toNat_eq e)
  unfold Memory.write Memory.read
  split
  · exact Memory.find_erase_other m hn
  · rw [Memory.find_insert_other _ v hn, Memory.find_erase_other m hn]

theorem Memory.read_write (m : Memory) (addr b : Addr) (v : Byte) :
    (m.write addr v).read b = if b = addr then v else m.read b := by
  split
  · next h => rw [h, Memory.read_write_same]
  · next h => exact Memory.read_write_other m v h

@[simp] theorem Memory.read_nil (addr : Addr) :
    Memory.read [] addr = Params.memoryAtCreation := rfl

/-! ### The canonical form -/

theorem Memory.erase_pairwise {m : Memory} (n : Nat)
    (h : m.Pairwise fun c d => c.1 < d.1) : (m.erase n).Pairwise fun c d => c.1 < d.1 := by
  induction m with
  | nil => exact h
  | cons c rest ih =>
    obtain ⟨k, v⟩ := c
    rw [List.pairwise_cons] at h
    by_cases hk : k = n
    · rw [Memory.erase, if_pos hk]
      exact ih h.2
    · rw [Memory.erase, if_neg hk, List.pairwise_cons]
      exact ⟨fun d hd => h.1 d (Memory.mem_erase hd).1, ih h.2⟩

theorem Memory.insert_pairwise {m : Memory} (n : Nat) (v : Byte)
    (h : m.Pairwise fun c d => c.1 < d.1) (hn : ∀ c ∈ m, c.1 ≠ n) :
    (m.insert n v).Pairwise fun c d => c.1 < d.1 := by
  induction m with
  | nil => simp [Memory.insert]
  | cons c rest ih =>
    obtain ⟨k, w⟩ := c
    have hk : k ≠ n := hn (k, w) (by simp)
    have hc := List.pairwise_cons.mp h
    by_cases hlt : n < k
    · rw [Memory.insert, if_pos hlt, List.pairwise_cons]
      refine ⟨fun d hd => ?_, h⟩
      rcases List.mem_cons.mp hd with rfl | hd
      · exact hlt
      · exact Nat.lt_trans hlt (hc.1 d hd)
    · rw [Memory.insert, if_neg hlt, List.pairwise_cons]
      refine ⟨fun d hd => ?_, ih hc.2 fun d hd => hn d (by simp [hd])⟩
      rcases Memory.mem_insert hd with rfl | hd
      · exact Nat.lt_of_le_of_ne (Nat.le_of_not_lt hlt) hk
      · exact hc.1 d hd

theorem Memory.write_wf {m : Memory} (h : m.wf) (addr : Addr) (v : Byte) : (m.write addr v).wf := by
  unfold Memory.write
  split
  · exact ⟨Memory.erase_pairwise _ h.1, fun c hc => h.2 c (Memory.mem_erase hc).1⟩
  · next hv =>
    refine ⟨Memory.insert_pairwise _ _ (Memory.erase_pairwise _ h.1)
      fun c hc => (Memory.mem_erase hc).2, fun c hc => ?_⟩
    rcases Memory.mem_insert hc with rfl | hc
    · exact ⟨addr.isLt, hv⟩
    · exact h.2 c (Memory.mem_erase hc).1

theorem Memory.nil_wf : Memory.wf [] := by simp [Memory.wf]

/-- Where every listed address is above `n`, `n` is unlisted. -/
theorem Memory.find_of_all_gt {m : Memory} {n : Nat} (h : ∀ c ∈ m, n < c.1) :
    m.find n = Params.memoryAtCreation := by
  induction m with
  | nil => rfl
  | cons c rest ih =>
    obtain ⟨k, v⟩ := c
    have hk : n < k := h (k, v) (by simp)
    simp [Memory.find, show k ≠ n by omega, ih fun d hd => h d (by simp [hd])]

end Sys2Proof.Machine
end

