-- ==== Sys2Proof/Laws/PerInstr.lean ====
section
/-! SUPPORT. Statements about every instruction as syntax, one lemma per constructor. -/

/-- The opcode byte the encoder gives a well-formed instruction decodes to it (30_encoding.md R91,
R95). -/
def Sys2Proof.Laws.OpcodeDecodes.Statement (i : Sys2Proof.Instr) : Prop :=
  i.wf = true → ∃ op, Sys2Proof.opcodeOf i = some op ∧ Sys2Proof.decodeOpcode op = i

namespace Sys2Proof.Laws.OpcodeDecodes

/-- A row of the table gives the statement for its instruction. -/
theorem of_byte {i : Instr} (op : Byte) (h : opcodeOf i = some op ∧ decodeOpcode op = i) :
    Statement i := fun _ => ⟨op, h⟩

theorem brk : Statement .brk := of_byte 0x00 ⟨rfl, rfl⟩

theorem nop : Statement .nop := of_byte 0xEA ⟨rfl, rfl⟩

theorem bcc : Statement .bcc := of_byte 0x90 ⟨rfl, rfl⟩

theorem bcs : Statement .bcs := of_byte 0xB0 ⟨rfl, rfl⟩

theorem beq : Statement .beq := of_byte 0xF0 ⟨rfl, rfl⟩

theorem bmi : Statement .bmi := of_byte 0x30 ⟨rfl, rfl⟩

theorem bne : Statement .bne := of_byte 0xD0 ⟨rfl, rfl⟩

theorem bpl : Statement .bpl := of_byte 0x10 ⟨rfl, rfl⟩

theorem bvc : Statement .bvc := of_byte 0x50 ⟨rfl, rfl⟩

theorem bvs : Statement .bvs := of_byte 0x70 ⟨rfl, rfl⟩

theorem jmp (form : JmpForm) : Statement (.jmp form) := by
  cases form <;> exact of_byte _ ⟨rfl, rfl⟩

theorem jsr : Statement .jsr := of_byte 0x20 ⟨rfl, rfl⟩

theorem rts : Statement .rts := of_byte 0x60 ⟨rfl, rfl⟩

theorem rti : Statement .rti := of_byte 0x40 ⟨rfl, rfl⟩

theorem lda (m : Mode) : Statement (.lda m) := by
  cases m <;> intro h <;> first | (exact absurd h (by decide)) | exact ⟨_, rfl, rfl⟩

theorem ldx (m : Mode) : Statement (.ldx m) := by
  cases m <;> intro h <;> first | (exact absurd h (by decide)) | exact ⟨_, rfl, rfl⟩

theorem ldy (m : Mode) : Statement (.ldy m) := by
  cases m <;> intro h <;> first | (exact absurd h (by decide)) | exact ⟨_, rfl, rfl⟩

theorem sta (m : Mode) : Statement (.sta m) := by
  cases m <;> intro h <;> first | (exact absurd h (by decide)) | exact ⟨_, rfl, rfl⟩

theorem stx (m : Mode) : Statement (.stx m) := by
  cases m <;> intro h <;> first | (exact absurd h (by decide)) | exact ⟨_, rfl, rfl⟩

theorem sty (m : Mode) : Statement (.sty m) := by
  cases m <;> intro h <;> first | (exact absurd h (by decide)) | exact ⟨_, rfl, rfl⟩

theorem tax : Statement .tax := of_byte 0xAA ⟨rfl, rfl⟩

theorem tay : Statement .tay := of_byte 0xA8 ⟨rfl, rfl⟩

theorem tsx : Statement .tsx := of_byte 0xBA ⟨rfl, rfl⟩

theorem txa : Statement .txa := of_byte 0x8A ⟨rfl, rfl⟩

theorem tya : Statement .tya := of_byte 0x98 ⟨rfl, rfl⟩

theorem txs : Statement .txs := of_byte 0x9A ⟨rfl, rfl⟩

theorem inc (m : Mode) : Statement (.inc m) := by
  cases m <;> intro h <;> first | (exact absurd h (by decide)) | exact ⟨_, rfl, rfl⟩

theorem dec (m : Mode) : Statement (.dec m) := by
  cases m <;> intro h <;> first | (exact absurd h (by decide)) | exact ⟨_, rfl, rfl⟩

theorem inx : Statement .inx := of_byte 0xE8 ⟨rfl, rfl⟩

theorem iny : Statement .iny := of_byte 0xC8 ⟨rfl, rfl⟩

theorem dex : Statement .dex := of_byte 0xCA ⟨rfl, rfl⟩

theorem dey : Statement .dey := of_byte 0x88 ⟨rfl, rfl⟩

theorem and (m : Mode) : Statement (.and m) := by
  cases m <;> intro h <;> first | (exact absurd h (by decide)) | exact ⟨_, rfl, rfl⟩

theorem eor (m : Mode) : Statement (.eor m) := by
  cases m <;> intro h <;> first | (exact absurd h (by decide)) | exact ⟨_, rfl, rfl⟩

theorem ora (m : Mode) : Statement (.ora m) := by
  cases m <;> intro h <;> first | (exact absurd h (by decide)) | exact ⟨_, rfl, rfl⟩

theorem asl (m : Mode) : Statement (.asl m) := by
  cases m <;> intro h <;> first | (exact absurd h (by decide)) | exact ⟨_, rfl, rfl⟩

theorem bit (m : Mode) : Statement (.bit m) := by
  cases m <;> intro h <;> first | (exact absurd h (by decide)) | exact ⟨_, rfl, rfl⟩

theorem lsr (m : Mode) : Statement (.lsr m) := by
  cases m <;> intro h <;> first | (exact absurd h (by decide)) | exact ⟨_, rfl, rfl⟩

theorem rol (m : Mode) : Statement (.rol m) := by
  cases m <;> intro h <;> first | (exact absurd h (by decide)) | exact ⟨_, rfl, rfl⟩

theorem ror (m : Mode) : Statement (.ror m) := by
  cases m <;> intro h <;> first | (exact absurd h (by decide)) | exact ⟨_, rfl, rfl⟩

theorem pla : Statement .pla := of_byte 0x68 ⟨rfl, rfl⟩

theorem pha : Statement .pha := of_byte 0x48 ⟨rfl, rfl⟩

theorem php : Statement .php := of_byte 0x08 ⟨rfl, rfl⟩

theorem clc : Statement .clc := of_byte 0x18 ⟨rfl, rfl⟩

theorem cld : Statement .cld := of_byte 0xD8 ⟨rfl, rfl⟩

theorem cli : Statement .cli := of_byte 0x58 ⟨rfl, rfl⟩

theorem clv : Statement .clv := of_byte 0xB8 ⟨rfl, rfl⟩

theorem sec : Statement .sec := of_byte 0x38 ⟨rfl, rfl⟩

theorem sed : Statement .sed := of_byte 0xF8 ⟨rfl, rfl⟩

theorem sei : Statement .sei := of_byte 0x78 ⟨rfl, rfl⟩

theorem plp : Statement .plp := of_byte 0x28 ⟨rfl, rfl⟩

theorem adc (m : Mode) : Statement (.adc m) := by
  cases m <;> intro h <;> first | (exact absurd h (by decide)) | exact ⟨_, rfl, rfl⟩

theorem sbc (m : Mode) : Statement (.sbc m) := by
  cases m <;> intro h <;> first | (exact absurd h (by decide)) | exact ⟨_, rfl, rfl⟩

theorem cmp (m : Mode) : Statement (.cmp m) := by
  cases m <;> intro h <;> first | (exact absurd h (by decide)) | exact ⟨_, rfl, rfl⟩

theorem cpx (m : Mode) : Statement (.cpx m) := by
  cases m <;> intro h <;> first | (exact absurd h (by decide)) | exact ⟨_, rfl, rfl⟩

theorem cpy (m : Mode) : Statement (.cpy m) := by
  cases m <;> intro h <;> first | (exact absurd h (by decide)) | exact ⟨_, rfl, rfl⟩

theorem unrecognized (op : Byte) : Statement (.unrecognized op) := by
  intro h
  have hb : op ∈ unrecognizedBytes := by
    simpa [Instr.wf, Instr.allowedModes, Instr.mode] using h
  refine ⟨op, by simpa [opcodeOf] using hb, ?_⟩
  simp [decodeOpcode, descriptorOf, (lookup_eq_none_iff op).mpr hb]

end Sys2Proof.Laws.OpcodeDecodes
end

