-- ==== Sys2Proof/Laws/Step.lean ====
section
/-! SUPPORT. What the engine can do around a handler, said once. -/

namespace Sys2Proof.Machine

theorem stepWith_of_latched (table : OpcodeTable) {s : State} {r : FaultRecord}
    (h : s.fault = some r) : stepWith table s = .fault (.latched r) := by
  simp [stepWith, h]

theorem stepWith_of_none (table : OpcodeTable) {s : State} (h : s.fault = none) :
    stepWith table s = finish (descriptorOf table (s.memRead s.pc)).length
      (exec (descriptorOf table (s.memRead s.pc)).instr s.fetched) := by
  simp [stepWith, h]

theorem step_of_none {s : State} (h : s.fault = none) :
    step s = finish (lengthOf (s.memRead s.pc)) (exec (decodeOpcode (s.memRead s.pc)) s.fetched) :=
  stepWith_of_none opcodeTable h

/-- A step that answers a next state started with no fault latched. -/
theorem fault_none_of_next {table : OpcodeTable} {s t : State} (h : stepWith table s = .next t) :
    s.fault = none := by
  cases hf : s.fault with
  | none => rfl
  | some r => simp [stepWith_of_latched table hf] at h

@[simp] theorem fetched_memRead (s : State) (addr : Addr) :
    s.fetched.memRead addr = s.memRead addr := rfl

/-- A fault raised in the state the fetch left records the fetched byte and its address. -/
theorem fetched_raise (s : State) (k : FaultKind) :
    s.fetched.raise k =
      { s with pc := s.pc + 1#16, halted := false, fault := some ⟨k, s.memRead s.pc, s.pc⟩ } := by
  simp [State.raise, State.fetched, State.memRead]

theorem finish_raise (n : Nat) (s : State) (k : FaultKind) :
    finish n (.next (s.raise k)) = .next (s.raise k) := by
  simp [finish, State.outcome]

theorem finish_continued {n : Nat} {t : State} (h : t.outcome = .continued) :
    finish n (.next t) = .next (t.advance n) := by
  simp [finish, h]

theorem finish_ended {n : Nat} {t : State} (h : t.outcome ≠ .continued) :
    finish n (.next t) = .next t := by
  cases ho : t.outcome <;> simp_all [finish]

/-- Everything a step from an unfaulted state can do, under any opcode table: complete and advance, halt,
or fault. -/
theorem stepWith_cases (table : OpcodeTable) {s : State} (h : s.fault = none) :
    let d := descriptorOf table (s.memRead s.pc)
    (∃ t, exec d.instr s.fetched = .next t ∧ Completed d.instr s.fetched t ∧
      d.instr.implemented = true ∧ d.instr ≠ .brk ∧ stepWith table s = .next (t.advance d.length)) ∨
    (d.instr = .brk ∧ stepWith table s = .next s.fetched.halt) ∨
    (∃ k, stepWith table s = .next (s.fetched.raise k) ∧
      ((k = .unsupportedAddressingMode ∧ d.instr.implemented = true ∧
          d.instr.mode = .noneAddressing ∧ d.instr.wf = false) ∨
        (k = .unimplementedOpcode ∧ d.instr.implemented = false ∧
          ∀ op, d.instr ≠ .unrecognized op) ∨
        (k = .unrecognizedOpcode ∧ ∃ op, d.instr = .unrecognized op))) := by
  intro d
  rw [stepWith_of_none table h]
  rcases exec_cases d.instr s.fetched with ⟨t, ht, hc, hi⟩ | ⟨ht, h1⟩ | ⟨ht, h1⟩ | ⟨ht, h1⟩
  · by_cases hb : d.instr = .brk
    · refine .inr (.inl ⟨hb, ?_⟩)
      show finish d.length (exec d.instr s.fetched) = _
      rw [hb]
      exact finish_ended (by simp [State.outcome, h])
    · refine .inl ⟨t, ht, hc, hi, hb, ?_⟩
      show finish d.length (exec d.instr s.fetched) = _
      rw [ht, finish_continued]
      rw [State.outcome_continued_iff, hc.fault, hc.halted]
      simp [h, hb]
  · refine .inr (.inr ⟨.unsupportedAddressingMode, ?_, .inl ⟨rfl, h1⟩⟩)
    rw [ht, finish_raise]
  · refine .inr (.inr ⟨.unimplementedOpcode, ?_, .inr (.inl ⟨rfl, h1⟩)⟩)
    rw [ht, finish_raise]
  · refine .inr (.inr ⟨.unrecognizedOpcode, ?_, .inr (.inr ⟨rfl, h1⟩)⟩)
    rw [ht, finish_raise]

end Sys2Proof.Machine
end

