-- ==== Sys2Proof/Laws/Stores.lean ====
section
/-! SUPPORT. Every operation that writes memory keeps its canonical form, and a stored byte string reads
back. -/

namespace Sys2Proof.Machine

theorem memWrite_wf {s : State} (h : s.mem.wf) (addr : Addr) (v : Byte) :
    (s.memWrite addr v).mem.wf := Memory.write_wf h addr v

theorem memWrite16_wf {s : State} (h : s.mem.wf) (addr v : Addr) : (s.memWrite16 addr v).mem.wf :=
  memWrite_wf (memWrite_wf h _ _) _ _

theorem push_wf {s : State} (h : s.mem.wf) (v : Byte) : (s.push v).mem.wf := Memory.write_wf h _ v

theorem push16_wf {s : State} (h : s.mem.wf) (v : Addr) : (s.push16 v).mem.wf := push_wf (push_wf h _) _

theorem writeBytes_wf {bytes : List Byte} : ∀ {s : State} {addr : Addr}, s.mem.wf →
    (s.writeBytes addr bytes).mem.wf := by
  induction bytes with
  | nil => exact id
  | cons v rest ih => exact fun h => ih (memWrite_wf h _ _)

theorem hostLoad_wf {s : State} (h : s.mem.wf) (program : List Byte) :
    (hostLoad program s).1.mem.wf := by
  unfold hostLoad
  split
  · exact h
  · exact memWrite16_wf (writeBytes_wf h) _ _

theorem withFetchWord_wf {s : State} (h : s.mem.wf) (nbits w : Nat) :
    (s.withFetchWord nbits w).mem.wf := writeBytes_wf (s := s) h

theorem reset_memory_wf : State.reset.mem.wf := Memory.nil_wf

/-- What a completed handler leaves in memory is canonical where it was. -/
theorem Completed.wf {i : Instr} {s t : State} (hc : Completed i s t) (h : s.mem.wf) : t.mem.wf := by
  rcases hc.memory with hm | ⟨e, v, -, hm⟩
  · exact hm ▸ h
  · exact hm ▸ Memory.write_wf h e v

theorem memRead_memWrite (s : State) (addr b : Addr) (v : Byte) :
    (s.memWrite addr v).memRead b = if b = addr then v else s.memRead b :=
  Memory.read_write s.mem addr b v

/-- Writing a byte string leaves everything but memory as it was. -/
theorem writeBytes_eq (bytes : List Byte) : ∀ (s : State) (addr : Addr),
    s.writeBytes addr bytes = { s with mem := (s.writeBytes addr bytes).mem } := by
  induction bytes with
  | nil => exact fun _ _ => rfl
  | cons v rest ih =>
    intro s addr
    rw [State.writeBytes, ih]
    rfl

/-- A byte string that does not pass the top of memory reads back at its own addresses, and every other
byte is as it was. -/
theorem writeBytes_memRead (bytes : List Byte) : ∀ (s : State) (addr b : Addr),
    addr.toNat + bytes.length ≤ Config.memSize →
    (s.writeBytes addr bytes).memRead b =
      if addr.toNat ≤ b.toNat then bytes.getD (b.toNat - addr.toNat) (s.memRead b)
      else s.memRead b := by
  induction bytes with
  | nil => intro s addr b _; simp [State.writeBytes]
  | cons v rest ih =>
    intro s addr b hlen
    have hb := b.isLt
    have ha := addr.isLt
    simp only [Config.memSize, List.length_cons] at hlen
    rw [State.writeBytes]
    by_cases hrest : rest = []
    · subst hrest
      rw [State.writeBytes, memRead_memWrite]
      by_cases hba : b = addr
      · simp [hba]
      · have hne : b.toNat ≠ addr.toNat := fun e => hba (BitVec.eq_of_toNat_eq e)
        by_cases hle : addr.toNat ≤ b.toNat
        · rw [if_neg hba, if_pos hle, show b.toNat - addr.toNat = (b.toNat - addr.toNat - 1) + 1 by omega]
          simp
        · rw [if_neg hba, if_neg hle]
    · have hpos : 0 < rest.length := List.length_pos_iff.mpr hrest
      have hnext : (addr + 1#16).toNat = addr.toNat + 1 := by
        rw [BitVec.toNat_add]
        simp
        omega
      rw [ih _ _ _ (by simp only [Config.memSize]; omega), hnext, memRead_memWrite]
      by_cases hba : b = addr
      · subst hba
        simp
      · have hne : b.toNat ≠ addr.toNat := fun e => hba (BitVec.eq_of_toNat_eq e)
        rw [if_neg hba]
        by_cases hle : addr.toNat ≤ b.toNat
        · rw [if_pos hle, if_pos (by omega : addr.toNat + 1 ≤ b.toNat),
            show b.toNat - addr.toNat = (b.toNat - (addr.toNat + 1)) + 1 by omega]
          simp
        · rw [if_neg hle, if_neg (by omega : ¬ addr.toNat + 1 ≤ b.toNat)]

end Sys2Proof.Machine
end

