-- ==== Sys2Proof/Tests/Slice0.lean ====
section
/-! SUPPORT. The model's own tests. Expected results come from spec/95_test_vectors.md (V<n>), from the
encodings of spec/30_encoding.md and the instruction rules, or, for the witnesses at the end, from the
statements they are witnesses of. -/

set_option Elab.async false

namespace Sys2Proof.Tests

open Sys2Proof.Machine Sys2Proof.Statements

/-! ### Well-formedness refuses -/

theorem test_wf_refuses_modes :
    (Instr.lda .noneAddressing).wf = false ∧ (Instr.lda .zeroPageY).wf = false ∧
    (Instr.ldx .zeroPageX).wf = false ∧ (Instr.ldy .absoluteY).wf = false ∧
    (Instr.sta .immediate).wf = false ∧ (Instr.stx .zeroPageX).wf = false ∧
    (Instr.sty .absoluteX).wf = false ∧ (Instr.inc .noneAddressing).wf = false ∧
    (Instr.asl .immediate).wf = false ∧ (Instr.bit .immediate).wf = false ∧
    (Instr.cpx .zeroPageX).wf = false := by decide

theorem test_wf_refuses_recognized_byte : (Instr.unrecognized 0xEA).wf = false := by decide

theorem test_encode_refuses :
    encode (.sta .immediate) [0x00] = none ∧ encode (.lda .immediate) [] = none ∧
    encode (.unrecognized 0x00) [] = none := by decide

theorem test_decode_refuses :
    decode [] = .error .empty ∧ decode [0xAD, 0x34] = .error (.truncated 0xAD) :=
  ⟨rfl, rfl⟩

/-! ### Words written out from the encodings (R95, and each instruction's rule) -/

theorem test_decode_control :
    decode [0b00000000] = .ok ⟨.brk, [], []⟩ ∧ decode [0b11101010] = .ok ⟨.nop, [], []⟩ ∧
    decode [0b10010000, 0x02] = .ok ⟨.bcc, [0x02], []⟩ ∧
    decode [0b10110000, 0x02] = .ok ⟨.bcs, [0x02], []⟩ ∧
    decode [0b11110000, 0x02] = .ok ⟨.beq, [0x02], []⟩ ∧
    decode [0b00110000, 0x02] = .ok ⟨.bmi, [0x02], []⟩ ∧
    decode [0b11010000, 0x02] = .ok ⟨.bne, [0x02], []⟩ ∧
    decode [0b00010000, 0x02] = .ok ⟨.bpl, [0x02], []⟩ ∧
    decode [0b01010000, 0x02] = .ok ⟨.bvc, [0x02], []⟩ ∧
    decode [0b01110000, 0x02] = .ok ⟨.bvs, [0x02], []⟩ ∧
    decode [0b01001100, 0x34, 0x12] = .ok ⟨.jmp .absolute, [0x34, 0x12], []⟩ ∧
    decode [0b01101100, 0x34, 0x12] = .ok ⟨.jmp .indirect, [0x34, 0x12], []⟩ ∧
    decode [0b00100000, 0x34, 0x12] = .ok ⟨.jsr, [0x34, 0x12], []⟩ ∧
    decode [0b01100000] = .ok ⟨.rts, [], []⟩ ∧ decode [0b01000000] = .ok ⟨.rti, [], []⟩ :=
  ⟨rfl, rfl, rfl, rfl, rfl, rfl, rfl, rfl, rfl, rfl, rfl, rfl, rfl, rfl, rfl⟩

theorem test_decode_load_store :
    decode [0b10110001, 0x10] = .ok ⟨.lda .indirectY, [0x10], []⟩ ∧
    decode [0b10110110, 0x10] = .ok ⟨.ldx .zeroPageY, [0x10], []⟩ ∧
    decode [0b10111100, 0x34, 0x12] = .ok ⟨.ldy .absoluteX, [0x34, 0x12], []⟩ ∧
    decode [0b10011001, 0x34, 0x12] = .ok ⟨.sta .absoluteY, [0x34, 0x12], []⟩ ∧
    decode [0b10010110, 0x10] = .ok ⟨.stx .zeroPageY, [0x10], []⟩ ∧
    decode [0b10010100, 0x10] = .ok ⟨.sty .zeroPageX, [0x10], []⟩ :=
  ⟨rfl, rfl, rfl, rfl, rfl, rfl⟩

theorem test_decode_register :
    decode [0b10101010] = .ok ⟨.tax, [], []⟩ ∧ decode [0b10101000] = .ok ⟨.tay, [], []⟩ ∧
    decode [0b10111010] = .ok ⟨.tsx, [], []⟩ ∧ decode [0b10001010] = .ok ⟨.txa, [], []⟩ ∧
    decode [0b10011000] = .ok ⟨.tya, [], []⟩ ∧ decode [0b10011010] = .ok ⟨.txs, [], []⟩ ∧
    decode [0b11101000] = .ok ⟨.inx, [], []⟩ ∧ decode [0b11001000] = .ok ⟨.iny, [], []⟩ ∧
    decode [0b11001010] = .ok ⟨.dex, [], []⟩ ∧ decode [0b10001000] = .ok ⟨.dey, [], []⟩ ∧
    decode [0b01101000] = .ok ⟨.pla, [], []⟩ ∧ decode [0b01001000] = .ok ⟨.pha, [], []⟩ ∧
    decode [0b00001000] = .ok ⟨.php, [], []⟩ ∧ decode [0b00101000] = .ok ⟨.plp, [], []⟩ :=
  ⟨rfl, rfl, rfl, rfl, rfl, rfl, rfl, rfl, rfl, rfl, rfl, rfl, rfl, rfl⟩

theorem test_decode_flag :
    decode [0b00011000] = .ok ⟨.clc, [], []⟩ ∧ decode [0b11011000] = .ok ⟨.cld, [], []⟩ ∧
    decode [0b01011000] = .ok ⟨.cli, [], []⟩ ∧ decode [0b10111000] = .ok ⟨.clv, [], []⟩ ∧
    decode [0b00111000] = .ok ⟨.sec, [], []⟩ ∧ decode [0b11111000] = .ok ⟨.sed, [], []⟩ ∧
    decode [0b01111000] = .ok ⟨.sei, [], []⟩ :=
  ⟨rfl, rfl, rfl, rfl, rfl, rfl, rfl⟩

theorem test_decode_memory_operand :
    decode [0b11111110, 0x34, 0x12] = .ok ⟨.inc .absoluteX, [0x34, 0x12], []⟩ ∧
    decode [0b11010110, 0x10] = .ok ⟨.dec .zeroPageX, [0x10], []⟩ ∧
    decode [0b00100001, 0x10] = .ok ⟨.and .indirectX, [0x10], []⟩ ∧
    decode [0b01001001, 0xFF] = .ok ⟨.eor .immediate, [0xFF], []⟩ ∧
    decode [0b00011001, 0x34, 0x12] = .ok ⟨.ora .absoluteY, [0x34, 0x12], []⟩ ∧
    decode [0b00001010] = .ok ⟨.asl .noneAddressing, [], []⟩ ∧
    decode [0b00101100, 0x34, 0x12] = .ok ⟨.bit .absolute, [0x34, 0x12], []⟩ ∧
    decode [0b01001010] = .ok ⟨.lsr .noneAddressing, [], []⟩ ∧
    decode [0b00100110, 0x10] = .ok ⟨.rol .zeroPage, [0x10], []⟩ ∧
    decode [0b01110110, 0x10] = .ok ⟨.ror .zeroPageX, [0x10], []⟩ ∧
    decode [0b01101001, 0x01] = .ok ⟨.adc .immediate, [0x01], []⟩ ∧
    decode [0b11110001, 0x10] = .ok ⟨.sbc .indirectY, [0x10], []⟩ ∧
    decode [0b11011101, 0x34, 0x12] = .ok ⟨.cmp .absoluteX, [0x34, 0x12], []⟩ ∧
    decode [0b11100100, 0x10] = .ok ⟨.cpx .zeroPage, [0x10], []⟩ ∧
    decode [0b11001100, 0x34, 0x12] = .ok ⟨.cpy .absolute, [0x34, 0x12], []⟩ ∧
    decode [0b10001001, 0x00] = .ok ⟨.unrecognized 0x89, [], [0x00]⟩ :=
  ⟨rfl, rfl, rfl, rfl, rfl, rfl, rfl, rfl, rfl, rfl, rfl, rfl, rfl, rfl, rfl, rfl⟩

theorem test_table_word :
    decodeTableWord 16 0x05A9 = some (.lda .immediate) ∧
    decodeTableWord 8 0xAD = some (.lda .absolute) ∧
    decodeTableWord 24 0x12346C = some (.jmp .indirect) ∧
    decodeTableWord 8 0x02 = some (.unrecognized 0x02) :=
  ⟨rfl, rfl, rfl, rfl⟩

/-! ### One step from the state after reset with PC at a given address (spec/95_test_vectors.md
Part 2) -/

/-- The state after reset with bytes at an address and PC there. -/
def at' (addr : Addr) (bytes : List Byte) : State :=
  { State.reset.writeBytes addr bytes with pc := addr }

/-- The same at 0x8000. -/
def ready (bytes : List Byte) : State := at' 0x8000#16 bytes

/-- Set bytes of memory. -/
def setting (cells : List (Addr × Byte)) (s : State) : State :=
  cells.foldl (fun t c => t.memWrite c.1 c.2) s

/-- The state one step leads to. -/
def after (s : State) : Option State :=
  match step s with
  | .next t => some t
  | .fault _ | .refused _ => none

/-- One field of the state one step leads to. -/
def seen {α : Type} (s : State) (field : State → α) : Option α := (after s).map field

/-- A, P and PC after one step. -/
def seenA (s : State) : Option (Byte × Byte × Addr) := seen s fun t => (t.a, t.p.toByte, t.pc)

/-- X, P and PC after one step. -/
def seenX (s : State) : Option (Byte × Byte × Addr) := seen s fun t => (t.x, t.p.toByte, t.pc)

/-- Y, P and PC after one step. -/
def seenY (s : State) : Option (Byte × Byte × Addr) := seen s fun t => (t.y, t.p.toByte, t.pc)

/-- One byte of memory, P and PC after one step. -/
def seenM (s : State) (addr : Addr) : Option (Byte × Byte × Addr) :=
  seen s fun t => (t.memRead addr, t.p.toByte, t.pc)

/-- V1. -/
theorem test_immediate : seenA (ready [0xA9, 0x42]) = some (0x42, 0x04, 0x8002) := by
  decide +kernel

/-- V3. -/
theorem test_zeroPageX_wraps :
    seenA (setting [(0x007F, 0x11), (0x017F, 0x22)] { ready [0xB5, 0x80] with x := 0xFF }) =
      some (0x11, 0x04, 0x8002) := by decide +kernel

/-- V4. -/
theorem test_zeroPageY_wraps :
    seenX (setting [(0x0001, 0x33), (0x0101, 0x44)] { ready [0xB6, 0xFF] with y := 0x02 }) =
      some (0x33, 0x04, 0x8002) := by decide +kernel

/-- V5. -/
theorem test_absolute_little_endian :
    seenA (setting [(0x1234, 0x56), (0x3412, 0x78)] (ready [0xAD, 0x34, 0x12])) =
      some (0x56, 0x04, 0x8003) := by decide +kernel

/-- V7. -/
theorem test_absoluteX_wraps :
    seenA (setting [(0x0000, 0x80)] { ready [0xBD, 0xFF, 0xFF] with x := 0x01 }) =
      some (0x80, 0x84, 0x8003) := by decide +kernel

/-- V8. -/
theorem test_absoluteY :
    seenA (setting [(0x20FF, 0x7F)] { ready [0xB9, 0x00, 0x20] with y := 0xFF }) =
      some (0x7F, 0x04, 0x8003) := by decide +kernel

/-- V10: the pointer's high byte comes from 0x0000, not 0x0100. -/
theorem test_indirectX_pointer_wraps :
    seenA (setting [(0x00FF, 0x00), (0x0000, 0x30), (0x0100, 0x40), (0x3000, 0x5C), (0x4000, 0x6D)]
      { ready [0xA1, 0xFE] with x := 0x01 }) = some (0x5C, 0x04, 0x8002) := by decide +kernel

/-- V12. -/
theorem test_indirectY_crosses_page :
    seenA (setting [(0x0010, 0xF8), (0x0011, 0x12), (0x1308, 0x44)]
      { ready [0xB1, 0x10] with y := 0x10 }) = some (0x44, 0x04, 0x8002) := by decide +kernel

/-- V13. -/
theorem test_indirectY_pointer_wraps :
    seenA (setting [(0x00FF, 0x00), (0x0000, 0x50), (0x0100, 0x60), (0x5000, 0x01)]
      (ready [0xB1, 0xFF])) = some (0x01, 0x04, 0x8002) := by decide +kernel

/-- V15. -/
theorem test_lda_zero :
    seenA { ready [0xA9, 0x00] with p := Status.ofByte 0x80 } = some (0x00, 0x02, 0x8002) := by
  decide +kernel

/-- V18. -/
theorem test_ldx_absoluteY :
    seenX { ready [0xBE, 0x00, 0x03] with y := 0x05 } = some (0x00, 0x06, 0x8003) := by
  decide +kernel

/-- V20. -/
theorem test_ldy_zeroPageX :
    seenY (setting [(0x0000, 0x7E)] { ready [0xB4, 0xFF] with x := 0x01 }) =
      some (0x7E, 0x04, 0x8002) := by decide +kernel

/-- V22: Z is not set though the byte stored is 00. -/
theorem test_sta_leaves_flags :
    seenM { ready [0x85, 0x87] with p := Status.ofByte 0x80 } 0x0087 =
      some (0x00, 0x80, 0x8002) := by decide +kernel

/-- V24. -/
theorem test_sta_next_instruction :
    seenM { ready [0x8D, 0x03, 0x80] with a := 0xE8 } 0x8003 = some (0xE8, 0x84, 0x8003) := by
  decide +kernel

/-- V25. -/
theorem test_stx_zeroPageY :
    seenM { ready [0x96, 0xFF] with x := 0x07, y := 0x02 } 0x0001 =
      some (0x07, 0x84, 0x8002) := by decide +kernel

/-- V28: address 0xFFFF exists. -/
theorem test_sty_top :
    seenM { ready [0x8C, 0xFF, 0xFF] with y := 0x01 } 0xFFFF = some (0x01, 0x84, 0x8003) := by
  decide +kernel

/-- V29. -/
theorem test_tax : seenX { ready [0xAA] with x := 0x55 } = some (0x00, 0x06, 0x8001) := by
  decide +kernel

/-- V30. -/
theorem test_tay : seenY { ready [0xA8] with a := 0x80 } = some (0x80, 0x84, 0x8001) := by
  decide +kernel

/-- V31. -/
theorem test_tsx : seenX (ready [0xBA]) = some (0xFD, 0x84, 0x8001) := by decide +kernel

/-- V33. -/
theorem test_txa : seenA { ready [0x8A] with x := 0x7F } = some (0x7F, 0x04, 0x8001) := by
  decide +kernel

/-- V34. -/
theorem test_tya :
    seenA { ready [0x98] with a := 0x33, p := Status.ofByte 0x80 } =
      some (0x00, 0x02, 0x8001) := by decide +kernel

/-- V35. -/
theorem test_txs_no_flag :
    seen { ready [0x9A] with p := Status.ofByte 0x80 } (fun t => (t.sp, t.p.toByte, t.pc)) =
      some (0x00, 0x80, 0x8001) := by decide +kernel

/-- V36: the flags come from the byte written, not from X. -/
theorem test_inc_wraps :
    seenM (setting [(0x0040, 0xFF)] { ready [0xE6, 0x40] with x := 0x55 }) 0x0040 =
      some (0x00, 0x06, 0x8002) := by decide +kernel

/-- V39. -/
theorem test_inc_absoluteX_wraps :
    seenM { ready [0xFE, 0xFF, 0xFF] with x := 0x01 } 0x0000 = some (0x01, 0x04, 0x8003) := by
  decide +kernel

/-- V40. -/
theorem test_dec_wraps : seenM (ready [0xC6, 0x40]) 0x0040 = some (0xFF, 0x84, 0x8002) := by
  decide +kernel

/-- V41. -/
theorem test_dec_to_zero :
    seenM (setting [(0x0200, 0x01)] (ready [0xCE, 0x00, 0x02])) 0x0200 =
      some (0x00, 0x06, 0x8003) := by decide +kernel

/-- V44. -/
theorem test_inx : seenX { ready [0xE8] with x := 0xFF } = some (0x00, 0x06, 0x8001) := by
  decide +kernel

/-- V45. -/
theorem test_iny : seenY { ready [0xC8] with y := 0x7F } = some (0x80, 0x84, 0x8001) := by
  decide +kernel

/-- V46. -/
theorem test_dex : seenX (ready [0xCA]) = some (0xFF, 0x84, 0x8001) := by decide +kernel

/-- V47. -/
theorem test_dey : seenY { ready [0x88] with y := 0x01 } = some (0x00, 0x06, 0x8001) := by
  decide +kernel

/-- V49. -/
theorem test_and_indirectX :
    seenA (setting [(0x0010, 0x00), (0x0011, 0x03), (0x0300, 0x3C)]
      { ready [0x21, 0x10] with a := 0xF0 }) = some (0x30, 0x04, 0x8002) := by decide +kernel

/-- V51. -/
theorem test_eor : seenA { ready [0x49, 0xFF] with a := 0x0F } = some (0xF0, 0x84, 0x8002) := by
  decide +kernel

/-- V53. -/
theorem test_ora_absoluteY :
    seenA (setting [(0x0301, 0xF0)] { ready [0x19, 0x00, 0x03] with a := 0x0F, y := 0x01 }) =
      some (0xFF, 0x84, 0x8003) := by decide +kernel

/-- V55. -/
theorem test_asl_accumulator :
    seenA { ready [0x0A] with a := 0x40, p := Status.ofByte 0x05 } =
      some (0x80, 0x84, 0x8001) := by decide +kernel

/-- V57. -/
theorem test_asl_memory :
    seenM (setting [(0x0010, 0xC1)] (ready [0x06, 0x10])) 0x0010 = some (0x82, 0x85, 0x8002) := by
  decide +kernel

/-- V61, with PLA_SETS_ZN true and false. -/
theorem test_pla_after_reset :
    seen (ready [0x68]) (fun t => (t.a, t.sp, t.p.toByte)) = some (0x00, 0xFE, 0x06) ∧
    (plaWith false (ready [0x68])).p.toByte = 0x84 := by decide +kernel

/-- V62. -/
theorem test_pla_wraps :
    seen (setting [(0x0100, 0x80)] { ready [0x68] with sp := 0xFF })
      (fun t => (t.a, t.sp, t.p.toByte)) = some (0x80, 0x00, 0x84) := by decide +kernel

/-- V64, V65, V66, V67: a clear of a clear flag does not toggle it. -/
theorem test_clear_flags :
    seenA (ready [0x18]) = some (0x00, 0x84, 0x8001) ∧
    seenA { ready [0xD8] with p := Status.ofByte 0x8C } = some (0x00, 0x84, 0x8001) ∧
    seenA (ready [0x58]) = some (0x00, 0x80, 0x8001) ∧
    seenA (ready [0xB8]) = some (0x00, 0x84, 0x8001) := by decide +kernel

/-- V68, V69, V70. -/
theorem test_set_flags :
    seenA (ready [0x38]) = some (0x00, 0x85, 0x8001) ∧
    seenA (ready [0xF8]) = some (0x00, 0x8C, 0x8001) ∧
    seenA (ready [0x78]) = some (0x00, 0x84, 0x8001) := by decide +kernel

/-- V73. -/
theorem test_brk_at_top :
    seen (at' 0xFFFF#16 [0x00]) (fun t => (t.outcome, t.pc, t.p.toByte, t.sp)) =
      some (.halted, 0x0000, 0x84, 0xFD) := by decide +kernel

/-- V74. -/
theorem test_nop :
    seen (ready [0xEA]) (fun t => (t.outcome, t.pc, t.p.toByte)) =
      some (.continued, 0x8001, 0x84) := by decide +kernel

/-- V76: the operand bytes wrap past 0xFFFF. -/
theorem test_operand_wraps :
    seenA (setting [(0x1234, 0x00), (0x3412, 0x00)] (at' 0xFFFE#16 [0xAD, 0x34, 0x12])) =
      some (0x00, 0x06, 0x0001) := by decide +kernel

/-- V77, V78, V80, V81, V82: kind, byte, address, and PC one past it. -/
theorem test_unimplemented :
    seen { ready [0x69, 0x01] with a := 0x01 } (fun t => (t.a, t.p.toByte, t.pc, t.fault)) =
      some (0x01, 0x84, 0x8001, some ⟨.unimplementedOpcode, 0x69, 0x8000⟩) ∧
    seen (ready [0x4C, 0x00, 0x90]) (fun t => (t.pc, t.fault)) =
      some (0x8001, some ⟨.unimplementedOpcode, 0x4C, 0x8000⟩) ∧
    seen { ready [0x48] with a := 0x77 } (fun t => (t.sp, t.memRead 0x01FD, t.fault)) =
      some (0xFD, 0x00, some ⟨.unimplementedOpcode, 0x48, 0x8000⟩) ∧
    seen { ready [0x4A] with a := 0x01 } (fun t => (t.a, t.fault)) =
      some (0x01, some ⟨.unimplementedOpcode, 0x4A, 0x8000⟩) ∧
    seen { ready [0xF0, 0x02] with p := Status.ofByte 0x06 } (fun t => (t.pc, t.outcome)) =
      some (0x8001, .faulted) := by decide +kernel

/-- V83, V85. -/
theorem test_unrecognized :
    seen (ready [0x02]) (fun t => (t.pc, t.fault)) =
      some (0x8001, some ⟨.unrecognizedOpcode, 0x02, 0x8000⟩) ∧
    seen (ready [0x89, 0x00]) (fun t => (t.pc, t.fault)) =
      some (0x8001, some ⟨.unrecognizedOpcode, 0x89, 0x8000⟩) := by decide +kernel

/-- V86. -/
theorem test_no_step_while_faulted (r : FaultRecord) :
    after { ready [0xEA] with fault := some r } = none := rfl

/-- V87: a table whose LDA row has the mode NoneAddressing. -/
theorem test_handler_given_noneAddressing :
    stepWith [⟨0xA9, .lda .noneAddressing, 2⟩] (ready [0xA9, 0x05]) =
      .next { ready [0xA9, 0x05] with
        pc := 0x8001#16
        fault := some ⟨.unsupportedAddressingMode, 0xA9#8, 0x8000#16⟩ } := rfl

/-- V88. -/
theorem test_reset_reads_vector :
    (setting [(0xFFFC, 0x34), (0xFFFD, 0x12)] { ready [0x02] with a := 0x77 }).doReset.registers =
      ⟨0x00, 0x00, 0x00, 0xFD, 0x1234, 0x84, none⟩ := by decide +kernel

/-- V89. -/
theorem test_load :
    (hostLoad [0xA9, 0x05, 0x00] State.reset).1.mem =
      [(0x8000, 0xA9#8), (0x8001, 0x05#8), (0xFFFD, 0x80#8)] := by decide +kernel

/-- The first step after reset of an instruction placed by `withFetchWord`, for a row of each length. -/
theorem test_withFetchWord :
    seenA (State.reset.withFetchWord 16 0x05A9) = some (0x05, 0x04, 0x0002) ∧
    seenX (State.reset.withFetchWord 8 0xE8) = some (0x01, 0x04, 0x0001) ∧
    seenA (State.reset.withFetchWord 24 0x1234AD) = some (0x00, 0x06, 0x0003) := by decide +kernel

/-! ### Witnesses: for each statement with hypotheses, inputs that meet them, at the ends of the ranges -/

/-- A canonical memory with a byte at each end of the address space. -/
def twoEnds : Memory := [(0, 0x11#8), (65535, 0x22#8)]

theorem witness_ByteWriteSetsOneByte :
    (0x0000#16 ≠ 0xFFFF#16) ∧ (0xFFFE#16 ≠ 0xFFFF#16) := by decide

theorem witness_WordAccessIsLittleEndianAndWraps :
    (0x0001#16 ≠ 0xFFFF#16 ∧ 0x0001#16 ≠ 0xFFFF#16 + 1#16) ∧
    (0xFFFE#16 ≠ 0xFFFF#16 ∧ 0xFFFE#16 ≠ 0xFFFF#16 + 1#16) := by decide

theorem witness_CanonicalMemoryIsDeterminedByItsReads :
    Memory.wf twoEnds ∧ ∃ k, Memory.wf k ∧ ∀ addr, Memory.read twoEnds addr = Memory.read k addr :=
  ⟨by decide +kernel, twoEnds, by decide +kernel, fun _ => rfl⟩

/-- With SP 0x00 a pushed word lies at 0x0100 and 0x01FF. -/
theorem witness_PopAndWordStackOrder :
    [0x00FF#16, 0x0101#16, 0x01FE#16, 0x0200#16].all fun b =>
      b ≠ Params.stackBase + (0x00#8).setWidth 16 ∧
      b ≠ Params.stackBase + (0x00#8 - 1#8).setWidth 16 := by decide +kernel

theorem witness_PushesWrapAndStayInStackPage :
    ((List.replicate 256 0x55#8).length = 256) ∧
    (0x0200#16 ≠ 0x0100#16 + (0xFF#8).setWidth 16 ∧ 0x00FF#16 ≠ 0x0100#16 + (0x00#8).setWidth 16) ∧
    (0x0000#16).toNat < 0x0100 ∧ (0x00FF#16).toNat < 0x0100 ∧
    0x01FF < (0x0200#16).toNat ∧ 0x01FF < (0xFFFF#16).toNat :=
  ⟨List.length_replicate, by decide +kernel⟩

theorem witness_ImmediateAndZeroPageAddresses :
    ea .zeroPage (at' 0x8000#16 [0xFF]) = some 0x00FF#16 ∧
    ea .zeroPageX { at' 0x8000#16 [0xFF] with x := 0x01#8 } = some 0x0000#16 ∧
    ea .zeroPageY { at' 0x8000#16 [0x80] with y := 0x7F#8 } = some 0x00FF#16 ∧
    ∀ m ∈ [Mode.immediate, .zeroPage, .zeroPageX, .zeroPageY],
      ∃ d ∈ opcodeTable, d.instr.mode = m := by decide +kernel

theorem witness_AbsoluteAddresses :
    ∀ m ∈ [Mode.absolute, .absoluteX, .absoluteY], ∃ d ∈ opcodeTable, d.instr.mode = m := by
  decide +kernel

theorem witness_IndirectAddressesWrapInZeroPage :
    (at' 0x8000#16 [0xFE]).memRead 0x8000#16 + 0x01#8 = 0xFF#8 ∧
    ∀ m ∈ [Mode.indirectX, .indirectY], ∃ d ∈ opcodeTable, d.instr.mode = m := by decide +kernel

/-- A table that pairs LDA with NoneAddressing, and a step of the default table that faults. -/
theorem witness_HandlersFaultWithoutAddress :
    ((ready [0xA9]).fault = none ∧
      lookup [⟨0xA9, .lda .noneAddressing, 2⟩] ((ready [0xA9]).memRead (ready [0xA9]).pc) =
        some ⟨0xA9, .lda .noneAddressing, 2⟩) ∧
    ∃ t r, step (ready [0x02]) = .next t ∧ t.fault = some r :=
  ⟨by decide +kernel, _, _, rfl, rfl⟩

/-- The nine modes that resolve: what the statements about loads, stores, INC, DEC, AND, EOR, ORA and
ASL's memory forms assume of a mode. -/
theorem witness_modes_that_resolve :
    ∀ m ∈ [Mode.immediate, .zeroPage, .zeroPageX, .zeroPageY, .absolute, .absoluteX, .absoluteY,
      .indirectX, .indirectY], m ≠ .noneAddressing := by decide

theorem witness_StoresWriteOneByteNoFlag :
    Mode.absolute ≠ .noneAddressing ∧ ea .absolute (at' 0x8000#16 [0xFF, 0xFF]) = some 0xFFFF#16 ∧
    0x0000#16 ≠ 0xFFFF#16 := by decide +kernel

theorem witness_RegisterIncDecWraps :
    (0x00#8).toNat = ((0xFF#8).toNat + 1) % 256 ∧ (0x80#8).toNat = ((0x7F#8).toNat + 1) % 256 ∧
    (0xFF#8).toNat = ((0x00#8).toNat + 255) % 256 ∧ (0x7F#8).toNat = ((0x80#8).toNat + 255) % 256 := by
  decide

/-- `ready [op]` has no fault, and the byte at its PC is `op`, for every `op`. -/
theorem ready_byte (op : Byte) :
    (ready [op]).fault = none ∧ (ready [op]).memRead (ready [op]).pc = op :=
  ⟨rfl, Memory.read_write_same _ _ _⟩

theorem witness_HaltAndNopChangeOnlyPc :
    ((ready [0x00]).fault = none ∧ (ready [0x00]).memRead (ready [0x00]).pc = 0x00#8) ∧
    ((at' 0xFFFF#16 [0xEA]).fault = none ∧
      (at' 0xFFFF#16 [0xEA]).memRead (at' 0xFFFF#16 [0xEA]).pc = 0xEA#8) := by decide +kernel

theorem witness_ControlTransfersAreUnimplemented :
    ∀ op ∈ [0x90#8, 0xB0#8, 0xF0#8, 0x30#8, 0xD0#8, 0x10#8, 0x50#8, 0x70#8, 0x4C#8, 0x6C#8, 0x20#8,
      0x60#8, 0x40#8],
      (ready [op]).fault = none ∧ (ready [op]).memRead (ready [op]).pc = op :=
  fun op _ => ready_byte op

theorem witness_ShiftsBitAndPushesAreUnimplemented :
    ∀ op ∈ [0x24#8, 0x4A#8, 0x2A#8, 0x6A#8, 0x48#8, 0x08#8, 0x28#8],
      (ready [op]).fault = none ∧ (ready [op]).memRead (ready [op]).pc = op :=
  fun op _ => ready_byte op

theorem witness_ArithmeticAndComparesAreUnimplemented :
    ∀ op ∈ [0x69#8, 0xE9#8, 0xC9#8, 0xE0#8, 0xC0#8],
      (ready [op]).fault = none ∧ (ready [op]).memRead (ready [op]).pc = op :=
  fun op _ => ready_byte op

theorem witness_ByteOutsideTableFaults :
    ((ready [0xFF]).fault = none ∧
      (ready [0xFF]).memRead (ready [0xFF]).pc ∈ unrecognizedBytes) ∧
    lookup [] ((ready [0xEA]).memRead (ready [0xEA]).pc) = none := by decide +kernel

theorem witness_RecognizedMnemonicWithoutHandlerFaults :
    (lookup [⟨0x02, .pha, 2⟩] ((ready [0x02]).memRead (ready [0x02]).pc) = some ⟨0x02, .pha, 2⟩ ∧
      Instr.pha.implemented = false ∧ ∀ op, Instr.pha ≠ .unrecognized op) ∧
    ((ready [0x48]).memRead (ready [0x48]).pc ∉ unrecognizedBytes ∧
      (decodeOpcode ((ready [0x48]).memRead (ready [0x48]).pc)).implemented = false) :=
  ⟨⟨by decide +kernel, rfl, nofun⟩, by decide +kernel⟩

/-- An instruction of each length; the last one's operand bytes wrap past 0xFFFF. -/
theorem witness_StepRunsTheDecodedInstruction :
    ∀ s ∈ [ready [0xAA], ready [0xA9, 0x05], at' 0xFFFE#16 [0xAD, 0x34, 0x12]], s.fault = none ∧
      ∃ d, decode [s.memRead s.pc, s.memRead (s.pc + 1#16), s.memRead (s.pc + 2#16)] = .ok d := by
  intro s h
  simp only [List.mem_cons, List.not_mem_nil, or_false] at h
  rcases h with rfl | rfl | rfl
  · exact ⟨rfl, _, rfl⟩
  · exact ⟨rfl, _, rfl⟩
  · exact ⟨rfl, _, rfl⟩

theorem witness_StepHasOneOfThreeOutcomes :
    seen (at' 0xFFFF#16 [0xA9, 0x05]) State.outcome = some .continued ∧
    seen (ready [0x00]) State.outcome = some .halted ∧
    seen (ready [0x02]) State.outcome = some .faulted := by decide +kernel

theorem witness_FaultingStepChangesOnlyPcAndLatch :
    (∃ t, stepWith opcodeTable (ready [0x48]) = .next t ∧ t.outcome = .faulted) ∧
    ∃ t, stepWith [] (ready [0xEA]) = .next t ∧ t.outcome = .faulted :=
  ⟨⟨_, rfl, rfl⟩, _, rfl, rfl⟩

theorem witness_NoStepWhileFaultedAndOnlyResetClears :
    { ready [0xEA] with fault := some ⟨.unrecognizedOpcode, 0x02#8, 0x7FFF#16⟩ }.fault =
      some ⟨.unrecognizedOpcode, 0x02#8, 0x7FFF#16⟩ := rfl

theorem witness_NextFetchSeesTheStore :
    ∀ c ∈ [(ready [0x8D, 0x03, 0x80], Instr.sta .absolute), (ready [0x8E, 0x03, 0x80], .stx .absolute),
      (ready [0x8C, 0x03, 0x80], .sty .absolute), (at' 0xFFFE#16 [0x85, 0x00], .sta .zeroPage)],
      c.1.fault = none ∧ decodeOpcode (c.1.memRead c.1.pc) = c.2 ∧
      ea c.2.mode (afterFetch c.1) =
        some (c.1.pc + BitVec.ofNat 16 (lengthOf (c.1.memRead c.1.pc))) := by decide +kernel

/-- What the four frames assume: every instruction, in every state, answers a next state. -/
theorem witness_frames (i : Instr) (s : State) : ∃ t, exec i s = .next t := by
  rcases exec_cases i s with ⟨t, h, -⟩ | ⟨h, -⟩ | ⟨h, -⟩ | ⟨h, -⟩ <;> exact ⟨_, h⟩

theorem witness_MemoryChangesOnlyAtTheStoredAddress :
    ea .zeroPage (at' 0x8000#16 [0x00]) ≠ some 0xFFFF#16 ∧
    ea .zeroPage (at' 0x8000#16 [0x00]) ≠ some 0x0001#16 ∧
    ea .noneAddressing (at' 0x8000#16 [0x00]) ≠ some 0x0000#16 := by decide +kernel

theorem witness_DecodeOfEncodeIsTheInstruction :
    encode .rts [] = some [0x60] ∧ encode (.sta .zeroPage) [0xFF] = some [0x85, 0xFF] ∧
    encode (.jmp .indirect) [0xFF, 0x00] = some [0x6C, 0xFF, 0x00] ∧
    encode (.unrecognized 0xFF) [] = some [0xFF] ∧
    (Instr.jmp .indirect).wf = true ∧ [0xFF#8, 0x00#8].length = (Instr.jmp .indirect).operandCount := by
  decide

theorem witness_EncodeOfDecodeIsTheBytes :
    ∃ d, decode [0x6C, 0xFF, 0x00, 0xEA] = .ok d := ⟨_, rfl⟩

theorem witness_LengthFollowsTheMode :
    (∀ i ∈ [Instr.bcc, .bcs, .beq, .bmi, .bne, .bpl, .bvc, .bvs, .jmp .absolute, .jmp .indirect, .jsr],
      ∃ d ∈ opcodeTable, d.instr = i) ∧
    ∀ m ∈ [Mode.noneAddressing, .immediate, .zeroPage, .zeroPageX, .zeroPageY, .absolute, .absoluteX,
      .absoluteY, .indirectX, .indirectY], ∃ d ∈ opcodeTable, d.instr.mode = m := by decide +kernel

theorem ready_inv (op : Byte) : (ready [op]).Inv :=
  ⟨Memory.write_wf Memory.nil_wf _ _, ⟨rfl, rfl, rfl⟩, nofun⟩

/-- A state of the invariant that goes on, one that halts and one that faults. -/
theorem witness_StepKeepsTheInvariant :
    ((ready [0xEA]).Inv ∧ ∃ t, step (ready [0xEA]) = .next t ∧ t.outcome = .continued) ∧
    ((ready [0x00]).Inv ∧ ∃ t, step (ready [0x00]) = .next t ∧ t.outcome = .halted) ∧
    ((ready [0x02]).Inv ∧ ∃ t, step (ready [0x02]) = .next t ∧ t.outcome = .faulted) :=
  ⟨⟨ready_inv _, _, rfl, rfl⟩, ⟨ready_inv _, _, rfl, rfl⟩, ready_inv _, _, rfl, rfl⟩

theorem witness_ResetMeetsTheInvariant :
    { State.reset with mem := twoEnds, fault := some ⟨.unrecognizedOpcode, 0x02#8, 0x8000#16⟩ }.mem.wf := by
  decide

theorem witness_HostActionsKeepMemoryAndFlags :
    (ready [0x02]).mem.wf ∧ (ready [0x02]).p.unsetFlagsClear := ⟨(ready_inv 0x02).1, (ready_inv 0x02).2⟩

/-- What the two statements about flags never set assume: a reached state, a program loaded and one step
taken. -/
theorem witness_reachedFromReset :
    ReachedFromReset (State.reset.doReset.hostActs [.load [0xB8, 0x00], .reset, .step]) := ⟨_, _, rfl⟩

theorem witness_FlagsNeverInfluenceARun :
    SameButFlags (ready [0x0A]) { ready [0x0A] with p := Status.ofByte 0xFF } ∧
    ready [0x0A] ≠ { ready [0x0A] with p := Status.ofByte 0xFF } := ⟨rfl, by decide +kernel⟩

/-- Programs of every length at the ends of the two ranges, and the addresses at their ends. -/
theorem witness_LoadPlacesProgramAndVector :
    (List.replicate 0 0xEA#8).length ≤ 0x8000 ∧ (List.replicate 0x8000 0xEA#8).length ≤ 0x8000 ∧
    0x8000 < (List.replicate 0x8001 0xEA#8).length ∧
    (∀ k ∈ [0, 0x7FFB, 0x7FFE, 0x7FFF],
      k < (List.replicate 0x8000 0xEA#8).length ∧ k ≠ 0x7FFC ∧ k ≠ 0x7FFD) ∧
    ([0x0000#16, 0x7FFF#16].all fun b => b ≠ 0xFFFC#16 ∧ b ≠ 0xFFFD#16 ∧ b.toNat < 0x8000) ∧
    (0xFFFF#16 ≠ 0xFFFC#16 ∧ 0xFFFF#16 ≠ 0xFFFD#16 ∧
      0x8000 + (List.replicate 0x7FFF 0xEA#8).length ≤ (0xFFFF#16).toNat) := by
  simp only [List.length_replicate]
  decide +kernel

theorem witness_LoadThenResetStartsAtTheProgram :
    (List.replicate 0x8000 0xEA#8).length ≤ 0x8000 ∧ 0 < [0x00#8].length ∧
    0x8000 < (List.replicate 0x8001 0xEA#8).length := by
  simp only [List.length_replicate]
  decide +kernel

/-- A run that ends halted after one step, one after two, and one that ends faulted. -/
theorem witness_RunEndsHaltedOrFaulted :
    (∃ t, RunEnds (ready [0x00]) t ∧ t.outcome = .halted) ∧
    (∃ t, RunEnds (ready [0xEA, 0x00]) t ∧ t.outcome = .halted) ∧
    ∃ t, RunEnds (ready [0x02]) t ∧ t.outcome = .faulted :=
  ⟨⟨_, .last rfl (by decide), rfl⟩, ⟨_, .more rfl rfl (.last rfl (by decide)), rfl⟩,
    _, .last rfl (by decide), rfl⟩

/-- A stretch of memory that holds one value reads as that value. -/
theorem find_stretch (v : Byte) (n : Nat) : ∀ first k, first ≤ k → k < first + n →
    Memory.find ((List.range' first n).map fun a => (a, v)) k = v := by
  induction n with
  | zero => intro first k h1 h2; omega
  | succ n ih =>
    intro first k h1 h2
    simp only [List.range'_succ, List.map_cons, Memory.find]
    split
    · rfl
    · exact ih _ _ (by omega) (by omega)

theorem witness_NopMemoryRunsForever :
    let s : State := { State.reset with
      pc := 0xFFFF#16, mem := (List.range' 0 65536).map fun a => (a, 0xEA#8) }
    s.fault = none ∧ ∀ b, s.memRead b = 0xEA#8 :=
  ⟨rfl, fun b => find_stretch _ _ 0 b.toNat (Nat.zero_le _) (by have := b.isLt; omega)⟩

end Sys2Proof.Tests
end

/-! ### Proofs of the family 10_state: SetZN, and the flags no instruction sets -/

namespace Sys2Proof.Machine

/-- Settles O5: SetZN is one write of Z and N into P (R31). -/
theorem setZNDerivesZeroAndNegative : Obligations.SetZNDerivesZeroAndNegative := by
  intro s v
  have hp : (s.setZN v).p = { s.p with z := decide (v = 0x00#8), n := v.msb } :=
    Status.setZN_eq s.p v
  exact ⟨by rw [hp], by rw [hp], rfl, rfl, rfl, rfl, rfl, rfl, rfl⟩

/-! #### Break, Break2 and Overflow stay clear -/

/-- R32: the only writer of V is CLV, so a completed handler leaves V clear where it was. -/
theorem Completed.unsetFlagsClear {i : Instr} {s t : State} (hc : Completed i s t)
    (hs : s.p.unsetFlagsClear) : t.p.unsetFlagsClear := by
  obtain ⟨hb, hb2, hv⟩ := hs
  have htv : t.p.v = false := hc.overflow.elim (fun h => h.trans hv) id
  exact ⟨hc.breakFlag.trans hb, hc.break2Flag.trans hb2, htv⟩

theorem stepWith_unsetFlagsClear {table : OpcodeTable} {s t : State}
    (hs : s.p.unsetFlagsClear) (h : stepWith table s = .next t) : t.p.unsetFlagsClear := by
  rcases stepWith_cases table (fault_none_of_next h) with
    ⟨u, -, hc, -, -, hu⟩ | ⟨-, hu⟩ | ⟨k, hu, -⟩ <;>
    obtain rfl := Host.Outcome.next.inj (h.symm.trans hu)
  case inl => exact hc.unsetFlagsClear hs
  case inr.inl => exact hs
  case inr.inr => exact hs

theorem step_unsetFlagsClear {s t : State} (hs : s.p.unsetFlagsClear) (h : step s = .next t) :
    t.p.unsetFlagsClear := stepWith_unsetFlagsClear hs h

theorem doReset_unsetFlagsClear (s : State) : s.doReset.p.unsetFlagsClear := ⟨rfl, rfl, rfl⟩

@[simp] theorem writeBytes_p (s : State) (addr : Addr) (bytes : List Byte) :
    (s.writeBytes addr bytes).p = s.p := by
  rw [writeBytes_eq]

/-- A load writes memory alone, whether it is accepted or refused (R343, R344). -/
@[simp] theorem hostLoad_p (program : List Byte) (s : State) : (hostLoad program s).1.p = s.p := by
  unfold hostLoad
  split
  · rfl
  · exact writeBytes_p s Params.loadOrigin program

theorem hostAct_unsetFlagsClear {s : State} (act : HostAction) (hs : s.p.unsetFlagsClear) :
    (s.hostAct act).1.p.unsetFlagsClear := by
  cases act with
  | load program => simpa [State.hostAct] using hs
  | reset => exact doReset_unsetFlagsClear s
  | step =>
    cases h : step s with
    | next t => simpa [State.hostAct, h] using step_unsetFlagsClear hs h
    | fault r => simpa [State.hostAct, h] using hs
    | refused r => simpa [State.hostAct, h] using hs
  | peek addr => exact hs
  | poke addr v => exact hs
  | readRegisters => exact hs

/-! #### Every state reached from reset -/

theorem hostActs_induction {P : State → Prop}
    (hact : ∀ (s : State) (act : HostAction), P s → P (s.hostAct act).1)
    (actions : List HostAction) : ∀ {s : State}, P s → P (s.hostActs actions) := by
  induction actions with
  | nil => exact id
  | cons act rest ih => exact fun hs => ih (hact _ act hs)

/-- What every reset establishes and every host action keeps holds in every state reached from
reset. -/
theorem ReachedFromReset.induction {P : State → Prop} (hreset : ∀ s : State, P s.doReset)
    (hact : ∀ (s : State) (act : HostAction), P s → P (s.hostAct act).1) {s : State}
    (h : ReachedFromReset s) : P s := by
  obtain ⟨s0, actions, rfl⟩ := h
  exact hostActs_induction hact actions (hreset s0)

theorem ReachedFromReset.unsetFlagsClear {s : State} (h : ReachedFromReset s) :
    s.p.unsetFlagsClear :=
  h.induction (P := fun t => t.p.unsetFlagsClear) doReset_unsetFlagsClear
    fun _ act hs => hostAct_unsetFlagsClear act hs

/-- Settles O48: reset clears Break2 and no host action sets it (R30). -/
theorem break2IsNeverSetAfterReset : Obligations.Break2IsNeverSetAfterReset := by
  refine ⟨fun s => ?_, fun s hs => ?_⟩
  · obtain ⟨-, hb2, -⟩ := doReset_unsetFlagsClear s
    exact hb2
  · obtain ⟨-, hb2, -⟩ := hs.unsetFlagsClear
    exact hb2

end Sys2Proof.Machine

/-! ### Proofs of the family 20_memory: byte and word accesses, the stack window, effective addresses -/

namespace Sys2Proof.Machine

open Statements (word)

/-! #### The model's words and addresses in the statements' spelling -/

theorem wordOf_eq_word (lo hi : Byte) : wordOf lo hi = word lo hi := wordOf_eq_append lo hi

/-- A word with an index register added wraps at 16 bits (R76, R77, R79). -/
theorem add_zext16_eq_ofNat (w : Addr) (b : Byte) :
    w + zext16 b = BitVec.ofNat 16 (w.toNat + b.toNat) := by
  apply BitVec.eq_of_toNat_eq
  rw [BitVec.toNat_add, zext16_toNat, BitVec.toNat_ofNat]

theorem zext16_toNat_le (b : Byte) : (zext16 b).toNat ≤ 0x00FF := by
  rw [zext16_toNat]
  exact Nat.le_of_lt_succ b.isLt

theorem addr_ne_succ (addr : Addr) : addr ≠ addr + 1#16 := by bv_omega

theorem memRead16_eq_word (s : State) (addr : Addr) :
    s.memRead16 addr = word (s.memRead addr) (s.memRead (addr + 1#16)) := wordOf_eq_word _ _

theorem zeroPageWord_eq_word (s : State) (ptr : Byte) :
    s.zeroPageWord ptr = word (s.memRead (zext16 ptr)) (s.memRead (zext16 (ptr + 1#8))) :=
  wordOf_eq_word _ _

/-! #### Byte accesses -/

@[simp] theorem memRead_memWrite_same (s : State) (addr : Addr) (v : Byte) :
    (s.memWrite addr v).memRead addr = v := by
  rw [memRead_memWrite, if_pos rfl]

theorem memRead_memWrite_other (s : State) {addr b : Addr} (v : Byte) (h : b ≠ addr) :
    (s.memWrite addr v).memRead b = s.memRead b := by
  rw [memRead_memWrite, if_neg h]

/-- Settles O6: a byte write is one update of memory, which every other address reads through. -/
theorem byteWriteSetsOneByte : Obligations.ByteWriteSetsOneByte :=
  fun s addr v => ⟨memRead_memWrite_same s addr v, fun _ h => memRead_memWrite_other s v h, rfl⟩

/-! #### Word accesses -/

theorem memRead_memWrite16_low (s : State) (addr v : Addr) :
    (s.memWrite16 addr v).memRead addr = lowByte v := by
  rw [State.memWrite16, memRead_memWrite_other _ _ (addr_ne_succ addr), memRead_memWrite_same]

theorem memRead_memWrite16_high (s : State) (addr v : Addr) :
    (s.memWrite16 addr v).memRead (addr + 1#16) = highByte v := by
  rw [State.memWrite16, memRead_memWrite_same]

theorem memRead_memWrite16_other (s : State) {addr b : Addr} (v : Addr) (hlo : b ≠ addr)
    (hhi : b ≠ addr + 1#16) : (s.memWrite16 addr v).memRead b = s.memRead b := by
  rw [State.memWrite16, memRead_memWrite_other _ _ hhi, memRead_memWrite_other _ _ hlo]

theorem memRead16_memWrite16 (s : State) (addr v : Addr) :
    (s.memWrite16 addr v).memRead16 addr = v := by
  calc (s.memWrite16 addr v).memRead16 addr
      = wordOf ((s.memWrite16 addr v).memRead addr)
          ((s.memWrite16 addr v).memRead (addr + 1#16)) := rfl
    _ = wordOf (lowByte v) (highByte v) := by
        rw [memRead_memWrite16_low, memRead_memWrite16_high]
    _ = v := wordOf_lowByte_highByte v

/-- Settles O7: a word is the two bytes at `addr` and `addr + 1`, which differ also where the second
wraps to 0x0000. -/
theorem wordAccessIsLittleEndianAndWraps : Obligations.WordAccessIsLittleEndianAndWraps :=
  ⟨memRead16_eq_word, fun s => memRead16_eq_word s 0xFFFF#16, fun s addr v =>
    ⟨memRead_memWrite16_low s addr v, memRead_memWrite16_high s addr v,
      fun _ hlo hhi => memRead_memWrite16_other s v hlo hhi, memRead16_memWrite16 s addr v, rfl⟩⟩

/-! #### The stack window -/

@[simp] theorem memRead_push_same (s : State) (v : Byte) :
    (s.push v).memRead (stackAddr s.sp) = v := Memory.read_write_same s.mem _ v

theorem memRead_push_other (s : State) {b : Addr} (v : Byte) (h : b ≠ stackAddr s.sp) :
    (s.push v).memRead b = s.memRead b := Memory.read_write_other s.mem v h

@[simp] theorem pop_memRead (s : State) (addr : Addr) : s.pop.2.memRead addr = s.memRead addr := rfl

theorem stackAddr_ne_pred (sp : Byte) : stackAddr sp ≠ stackAddr (sp - 1#8) := by
  intro h
  have hsp : sp = sp - 1#8 := stackAddr_injective h
  bv_omega

@[simp] theorem State.push16_sp (s : State) (v : Addr) : (s.push16 v).sp = s.sp - 2#8 := by
  rw [State.push16, State.push_sp, State.push_sp]
  bv_omega

theorem memRead_push16_high (s : State) (v : Addr) :
    (s.push16 v).memRead (stackAddr s.sp) = highByte v := by
  rw [State.push16, memRead_push_other _ _ (stackAddr_ne_pred s.sp), memRead_push_same]

theorem memRead_push16_low (s : State) (v : Addr) :
    (s.push16 v).memRead (stackAddr (s.sp - 1#8)) = lowByte v :=
  memRead_push_same (s.push (highByte v)) (lowByte v)

theorem memRead_push16_other (s : State) {b : Addr} (v : Addr) (hhi : b ≠ stackAddr s.sp)
    (hlo : b ≠ stackAddr (s.sp - 1#8)) : (s.push16 v).memRead b = s.memRead b := by
  rw [State.push16, memRead_push_other _ _ hlo, memRead_push_other _ _ hhi]

theorem byte_add_two (b : Byte) : b + 2#8 = b + 1#8 + 1#8 := by bv_omega

theorem pop16_word (s : State) :
    s.pop16.1 = wordOf (s.memRead (stackAddr (s.sp + 1#8))) (s.memRead (stackAddr (s.sp + 2#8))) := by
  rw [byte_add_two]
  rfl

theorem pop16_state (s : State) : s.pop16.2 = { s with sp := s.sp + 2#8 } := by
  rw [byte_add_two]
  rfl

theorem pop16_push16_word (s : State) (v : Addr) : (s.push16 v).pop16.1 = v := by
  have hlo : s.sp - 2#8 + 1#8 = s.sp - 1#8 := by bv_omega
  have hhi : s.sp - 2#8 + 2#8 = s.sp := by bv_omega
  rw [pop16_word, State.push16_sp, hlo, hhi, memRead_push16_low, memRead_push16_high,
    wordOf_lowByte_highByte]

theorem pop16_push16_sp (s : State) (v : Addr) : (s.push16 v).pop16.2.sp = s.sp := by
  rw [pop16_state, State.push16_sp]
  bv_omega

/-- Settles O9: the two stack addresses a word takes are distinct from every SP, and Pop16 reads them
in the reverse order of Push16's writes. -/
theorem popAndWordStackOrder : Obligations.PopAndWordStackOrder := by
  refine ⟨fun s => ⟨rfl, rfl⟩, fun s v => ?_, fun s => ⟨?_, pop16_state s⟩, fun s v => ?_⟩
  · exact ⟨memRead_push16_high s v, memRead_push16_low s v, State.push16_sp s v,
      fun _ hhi hlo => memRead_push16_other s v hhi hlo⟩
  · exact (pop16_word s).trans (wordOf_eq_word _ _)
  · exact ⟨pop16_push16_word s v, pop16_push16_sp s v⟩

/-! #### The rows of a mode in the default table -/

/-- A mode with an address decides the number of operand bytes; the mnemonics R92 excepts all carry
NoneAddressing. -/
theorem operandCount_of_mode {i : Instr} (h : i.mode ≠ .noneAddressing) :
    i.operandCount = i.mode.operandCount := by
  cases i <;> simp_all [Instr.mode, Instr.operandCount]

theorem row_length_of_mode {d : Descriptor} (hd : d ∈ opcodeTable)
    (h : d.instr.mode ≠ .noneAddressing) : d.length = d.instr.mode.operandCount + 1 := by
  rw [row_length d hd, operandCount_of_mode h]

/-- Rows whose modes have an address and one number of operand bytes have one length (R92). -/
theorem row_length_of_mem_modes {modes : List Mode} {n : Nat}
    (hmodes : ∀ m ∈ modes, m ≠ .noneAddressing ∧ m.operandCount + 1 = n) :
    ∀ d ∈ opcodeTable, d.instr.mode ∈ modes → d.length = n := by
  intro d hd hm
  obtain ⟨haddr, hn⟩ := hmodes d.instr.mode hm
  rw [row_length_of_mode hd haddr, hn]

theorem zeroPageY_rows : ∀ d ∈ opcodeTable, d.instr.mode = .zeroPageY ↔
    d = ⟨0xB6, .ldx .zeroPageY, 2⟩ ∨ d = ⟨0x96, .stx .zeroPageY, 2⟩ := by decide +kernel

/-! #### Effective addresses -/

/-- Settles O11: each zero-page address is a byte zero-extended, so it lies in page 0. -/
theorem immediateAndZeroPageAddresses : Obligations.ImmediateAndZeroPageAddresses := by
  refine ⟨fun _ => rfl, fun _ => rfl, fun _ => rfl, fun _ => rfl, fun s e h => ?_,
    row_length_of_mem_modes (by decide), zeroPageY_rows⟩
  have hzext : ∃ b, zext16 b = e := by
    rcases h with h | h | h <;> exact ⟨_, Option.some.inj h⟩
  obtain ⟨b, rfl⟩ := hzext
  exact zext16_toNat_le b

/-- Settles O12: the operand is the word at PC, and an index is added modulo 65536. -/
theorem absoluteAddresses : Obligations.AbsoluteAddresses := by
  refine ⟨fun s => ?_, fun s => ?_, fun s => ?_, row_length_of_mem_modes (by decide)⟩
  · rw [← memRead16_eq_word]
    rfl
  · rw [← memRead16_eq_word, ← add_zext16_eq_ofNat]
    rfl
  · rw [← memRead16_eq_word, ← add_zext16_eq_ofNat]
    rfl

theorem ea_indirectX (s : State) : ea .indirectX s =
    some (word (s.memRead (zext16 (s.memRead s.pc + s.x)))
      (s.memRead (zext16 (s.memRead s.pc + s.x + 1#8)))) :=
  congrArg some (zeroPageWord_eq_word s _)

theorem ea_indirectY (s : State) : ea .indirectY s =
    some (BitVec.ofNat 16 ((word (s.memRead (zext16 (s.memRead s.pc)))
      (s.memRead (zext16 (s.memRead s.pc + 1#8)))).toNat + s.y.toNat)) := by
  rw [← zeroPageWord_eq_word, ← add_zext16_eq_ofNat]
  rfl

/-- Settles O13: pointer and pointer + 1 are bytes zero-extended, so after 0xFF comes 0x0000. -/
theorem indirectAddressesWrapInZeroPage : Obligations.IndirectAddressesWrapInZeroPage := by
  refine ⟨ea_indirectX, fun s hptr => ?_, ea_indirectY, row_length_of_mem_modes (by decide)⟩
  rw [ea_indirectX, hptr]
  rfl

end Sys2Proof.Machine

/-! ### Proofs of the family 42_transfer: register transfers -/

namespace Sys2Proof.Machine

open Statements (EncodedBy withZN)

/-- The encoder tells decoded bytes apart, so a byte that decodes to an instruction is the only one. -/
theorem encodedBy_of_decodeOpcode {i : Instr} {op : Byte} (h : decodeOpcode op = i) :
    EncodedBy i op := by
  intro b
  constructor
  · intro hb
    have hop : some b = some op := by
      rw [← opcodeOf_decodeOpcode b, ← opcodeOf_decodeOpcode op, hb, h]
    exact Option.some.inj hop
  · rintro rfl
    exact h

theorem Status.setZN_eq_withZN (p : Status) (v : Byte) : p.setZN v = withZN p v :=
  Status.setZN_eq p v

/-- A register written with Z and N derived: the register, then P, and nothing else. -/
theorem writeRegZN_eq (r : Reg) (v : Byte) (s : State) :
    writeRegZN r v s = .next { s.setReg r v with p := withZN s.p v } := by
  rw [← Status.setZN_eq_withZN, ← State.setReg_any_p s r v]
  rfl

/-- Settles O17: every transfer but TXS is a register write with Z and N derived; TXS is the bare
register write. -/
theorem transfersCopyRegisters : Obligations.TransfersCopyRegisters := by
  refine ⟨encodedBy_of_decodeOpcode rfl, encodedBy_of_decodeOpcode rfl,
    encodedBy_of_decodeOpcode rfl, encodedBy_of_decodeOpcode rfl, encodedBy_of_decodeOpcode rfl,
    encodedBy_of_decodeOpcode rfl, fun s => ?_⟩
  exact ⟨writeRegZN_eq .x s.a s, writeRegZN_eq .y s.a s, writeRegZN_eq .x s.sp s,
    writeRegZN_eq .a s.x s, writeRegZN_eq .a s.y s, rfl⟩

end Sys2Proof.Machine

/-! ### Proofs of the family 43_inc_dec: INX, INY, DEX, DEY -/

namespace Sys2Proof.Machine

/-- Incrementing a byte is adding 1 modulo 256. -/
theorem eq_add_one_of_toNat {b v : Byte} (h : v.toNat = (b.toNat + 1) % 256) : v = b + 1#8 := by
  bv_omega

/-- Decrementing a byte is adding 255 modulo 256. -/
theorem eq_sub_one_of_toNat {b v : Byte} (h : v.toNat = (b.toNat + 255) % 256) : v = b - 1#8 := by
  bv_omega

/-- Settles O19: each handler writes its register with Z and N derived, and the value it writes is the
one `v` that the sum modulo 256 determines (R202 to R205). -/
theorem registerIncDecWraps : Obligations.RegisterIncDecWraps := by
  refine ⟨encodedBy_of_decodeOpcode rfl, encodedBy_of_decodeOpcode rfl,
    encodedBy_of_decodeOpcode rfl, encodedBy_of_decodeOpcode rfl,
    fun s v hv => ?_, fun s v hv => ?_, fun s v hv => ?_, fun s v hv => ?_⟩
  · obtain rfl := eq_add_one_of_toNat hv
    exact writeRegZN_eq .x (s.x + 1#8) s
  · obtain rfl := eq_add_one_of_toNat hv
    exact writeRegZN_eq .y (s.y + 1#8) s
  · obtain rfl := eq_sub_one_of_toNat hv
    exact writeRegZN_eq .x (s.x - 1#8) s
  · obtain rfl := eq_sub_one_of_toNat hv
    exact writeRegZN_eq .y (s.y - 1#8) s

end Sys2Proof.Machine

/-! ### Proofs of the family 44_logical_shift: ASL -/

namespace Sys2Proof.Machine

open Statements (EncodedByModes ModifiesByte withZN)

/-! #### Rows and read-modify-writes of any mnemonic -/

/-- Rows that decode to the mnemonic, among them every byte the encoder gives it, are all its rows. -/
theorem encodedByModes_of_rows {mnemonic : Mode → Instr} {rows : List (Byte × Mode)}
    (hrows : ∀ row ∈ rows, decodeOpcode row.1 = mnemonic row.2)
    (hop : ∀ m b, opcodeOf (mnemonic m) = some b → (b, m) ∈ rows) :
    EncodedByModes mnemonic rows := by
  intro b m
  constructor
  · intro hb
    exact hop m b (hb ▸ opcodeOf_decodeOpcode b)
  · exact hrows (b, m)

/-- An instruction that, at a resolved address, writes one byte there and then P is a
read-modify-write. -/
theorem modifiesByte_of_exec {mnemonic : Mode → Instr} {f : Byte → Byte}
    {carry : State → Byte → Bool}
    (h : ∀ m s e, ea m s = some e → exec (mnemonic m) s =
      .next { s.memWrite e (f (s.memRead e)) with
        p := { withZN s.p (f (s.memRead e)) with c := carry s (s.memRead e) } }) :
    ModifiesByte mnemonic f carry := by
  intro m s hm
  obtain ⟨e, he⟩ := ea_isSome hm s
  exact ⟨e, _, he, h m s e he, memRead_memWrite_same s e _,
    fun _ hb => memRead_memWrite_other s _ hb, rfl⟩

/-! #### The shift and its flags -/

theorem shiftLeft_eq_ofNat (v : Byte) : shiftLeft v = BitVec.ofNat 8 (2 * v.toNat) := by
  rw [shiftLeft]
  bv_omega

theorem shiftOut_eq_msb (v : Byte) : shiftOut v = v.msb := (BitVec.msb_eq_getLsbD_last v).symm

/-- Carry written before SetZN stays, since SetZN writes Z and N alone (R31). -/
theorem Status.setZN_writeFlag_carry (p : Status) (c : Bool) (v : Byte) :
    (p.writeFlag .carry c).setZN v = { withZN p v with c := c } := by
  rw [Status.setZN_eq_withZN]
  rfl

/-- ASL's accumulator form: A and P are written, and nothing else. -/
theorem exec_asl_accumulator (s : State) : exec (.asl .noneAddressing) s =
    .next { s with
      a := shiftLeft s.a
      p := { withZN s.p (shiftLeft s.a) with c := shiftOut s.a } } := by
  rw [← Status.setZN_writeFlag_carry]
  rfl

/-- ASL's memory forms: the byte at the address and P are written, and nothing else. -/
theorem exec_asl_memory {m : Mode} {s : State} {e : Addr} (he : ea m s = some e) :
    exec (.asl m) s = .next { s.memWrite e (shiftLeft (s.memRead e)) with
      p := { withZN s.p (shiftLeft (s.memRead e)) with c := shiftOut (s.memRead e) } } := by
  have hm : m ≠ .noneAddressing := by
    rintro rfl
    cases he
  change execAsl m s = _
  rw [execAsl_memory hm, withAddress_some he, ← Status.setZN_writeFlag_carry]
  rfl

/-- Settles O21: ASL's five rows are all its encodings, and each form writes its operand's place and
P, where SetZN leaves the Carry it wrote before (R223). -/
theorem shiftLeftMovesBitSevenToCarry : Obligations.ShiftLeftMovesBitSevenToCarry := by
  refine ⟨encodedByModes_of_rows (by decide) ?_, fun s => ?_, modifiesByte_of_exec ?_⟩
  · intro m b hb
    cases m <;> cases hb <;> decide
  · rw [exec_asl_accumulator, shiftLeft_eq_ofNat, shiftOut_eq_msb]
  · intro m s e he
    rw [exec_asl_memory he, shiftLeft_eq_ofNat, shiftOut_eq_msb]

end Sys2Proof.Machine

/-! ### Proofs of the family 45_stack_flags: CLC, CLD, CLI, CLV, SEC, SED, SEI -/

namespace Sys2Proof.Machine

/-! #### A flag write, flag by flag -/

theorem State.writeFlag_carry (s : State) (b : Bool) :
    s.writeFlag .carry b = { s with p := { s.p with c := b } } := rfl

theorem State.writeFlag_decimal (s : State) (b : Bool) :
    s.writeFlag .decimal b = { s with p := { s.p with d := b } } := rfl

theorem State.writeFlag_interruptDisable (s : State) (b : Bool) :
    s.writeFlag .interruptDisable b = { s with p := { s.p with i := b } } := rfl

theorem State.writeFlag_overflow (s : State) (b : Bool) :
    s.writeFlag .overflow b = { s with p := { s.p with v := b } } := rfl

/-- Settles O23: each handler is one flag write of a constant, so what the flag held does not matter,
and each byte decodes to its instruction (R243 to R249). -/
theorem flagInstructionsWriteOneFlag : Obligations.FlagInstructionsWriteOneFlag := by
  refine ⟨encodedBy_of_decodeOpcode rfl, encodedBy_of_decodeOpcode rfl,
    encodedBy_of_decodeOpcode rfl, encodedBy_of_decodeOpcode rfl, encodedBy_of_decodeOpcode rfl,
    encodedBy_of_decodeOpcode rfl, encodedBy_of_decodeOpcode rfl, fun s => ?_⟩
  exact ⟨congrArg Host.Outcome.next (s.writeFlag_carry false),
    congrArg Host.Outcome.next (s.writeFlag_decimal false),
    congrArg Host.Outcome.next (s.writeFlag_interruptDisable false),
    congrArg Host.Outcome.next (s.writeFlag_overflow false),
    congrArg Host.Outcome.next (s.writeFlag_carry true),
    congrArg Host.Outcome.next (s.writeFlag_decimal true),
    congrArg Host.Outcome.next (s.writeFlag_interruptDisable true)⟩

end Sys2Proof.Machine

/-! ### Proofs of the family other: the encoding -/

namespace Sys2Proof

/-! #### The encoder's byte and the decoder's instruction determine each other -/

/-- The statement of Laws/PerInstr.lean holds of every constructor. -/
theorem Laws.OpcodeDecodes.every (i : Instr) : Laws.OpcodeDecodes.Statement i :=
  match i with
  | .brk => brk
  | .nop => nop
  | .bcc => bcc
  | .bcs => bcs
  | .beq => beq
  | .bmi => bmi
  | .bne => bne
  | .bpl => bpl
  | .bvc => bvc
  | .bvs => bvs
  | .jmp form => jmp form
  | .jsr => jsr
  | .rts => rts
  | .rti => rti
  | .lda m => lda m
  | .ldx m => ldx m
  | .ldy m => ldy m
  | .sta m => sta m
  | .stx m => stx m
  | .sty m => sty m
  | .tax => tax
  | .tay => tay
  | .tsx => tsx
  | .txa => txa
  | .tya => tya
  | .txs => txs
  | .inc m => inc m
  | .dec m => dec m
  | .inx => inx
  | .iny => iny
  | .dex => dex
  | .dey => dey
  | .and m => and m
  | .eor m => eor m
  | .ora m => ora m
  | .asl m => asl m
  | .bit m => bit m
  | .lsr m => lsr m
  | .rol m => rol m
  | .ror m => ror m
  | .pla => pla
  | .pha => pha
  | .php => php
  | .clc => clc
  | .cld => cld
  | .cli => cli
  | .clv => clv
  | .sec => sec
  | .sed => sed
  | .sei => sei
  | .plp => plp
  | .adc m => adc m
  | .sbc m => sbc m
  | .cmp m => cmp m
  | .cpx m => cpx m
  | .cpy m => cpy m
  | .unrecognized op => unrecognized op

theorem decodeOpcode_of_opcodeOf {i : Instr} {op : Byte} (hwf : i.wf = true)
    (hop : opcodeOf i = some op) : decodeOpcode op = i := by
  obtain ⟨b, hb, hdec⟩ := Laws.OpcodeDecodes.every i hwf
  obtain rfl : op = b := Option.some.inj (hop.symm.trans hb)
  exact hdec

theorem opcodeOf_isSome {i : Instr} (hwf : i.wf = true) : ∃ op, opcodeOf i = some op := by
  obtain ⟨op, hop, -⟩ := Laws.OpcodeDecodes.every i hwf
  exact ⟨op, hop⟩

/-! #### When encode and decode answer, and what -/

theorem encode_eq_some_iff {i : Instr} {operands bytes : List Byte} :
    encode i operands = some bytes ↔
      i.wf = true ∧ operands.length = i.operandCount ∧
        ∃ op, opcodeOf i = some op ∧ op :: operands = bytes := by
  unfold encode
  split
  · next h =>
    obtain ⟨hwf, hlen⟩ : i.wf = true ∧ operands.length = i.operandCount := by simpa using h
    simp [hwf, hlen]
  · next h =>
    constructor
    · exact nofun
    · rintro ⟨hwf, hlen, -⟩
      exact absurd (by simp [hwf, hlen]) h

theorem decode_cons_eq_ok_iff {op : Byte} {bytes : List Byte} {d : Decoded} :
    decode (op :: bytes) = .ok d ↔ (decodeOpcode op).operandCount ≤ bytes.length ∧
      d = ⟨decodeOpcode op, bytes.take (decodeOpcode op).operandCount,
        bytes.drop (decodeOpcode op).operandCount⟩ := by
  simp only [decode, lengthOf_eq, Nat.add_sub_cancel]
  split
  · next h => exact ⟨nofun, fun hd => absurd h (Nat.not_lt.mpr hd.1)⟩
  · next h => simp [Nat.not_lt.mp h, eq_comm]

/-- Settles O40: the encoder's opcode decodes to the instruction, whose operand count splits what
follows. -/
theorem decodeOfEncodeIsTheInstruction : Obligations.DecodeOfEncodeIsTheInstruction := by
  refine ⟨fun i operands bytes rest h => ?_, fun i operands hwf hlen => ?_⟩
  · obtain ⟨hwf, hlen, op, hop, rfl⟩ := encode_eq_some_iff.mp h
    have hdec : decodeOpcode op = i := decodeOpcode_of_opcodeOf hwf hop
    rw [List.cons_append, decode_cons_eq_ok_iff, hdec, ← hlen]
    simp
  · obtain ⟨op, hop⟩ := opcodeOf_isSome hwf
    exact ⟨op :: operands, encode_eq_some_iff.mpr ⟨hwf, hlen, op, hop, rfl⟩, by simp [hlen]⟩

/-- Settles O41: a decoded opcode encodes to itself, and its operand count cuts the rest in two. -/
theorem encodeOfDecodeIsTheBytes : Obligations.EncodeOfDecodeIsTheBytes := by
  refine ⟨fun bytes d h => ?_, fun bytes => ?_⟩
  · cases bytes with
    | nil => cases h
    | cons op rest =>
      obtain ⟨hlen, rfl⟩ := decode_cons_eq_ok_iff.mp h
      refine ⟨_, encode_eq_some_iff.mpr
        ⟨decodeOpcode_wf op, ?_, op, opcodeOf_decodeOpcode op, rfl⟩, ?_⟩
      · exact List.length_take_of_le hlen
      · simp
  · cases bytes with
    | nil => exact ⟨nofun, nofun⟩
    | cons op rest =>
      simp [decode_cons_eq_ok_iff, lengthOf_eq]

/-! #### The rows of the default table -/

/-- Settles O42: a row's length is its operand count plus one, which R92 fixes by the mode. -/
theorem lengthFollowsTheMode : Obligations.LengthFollowsTheMode := by
  intro d hd
  rw [row_length d hd]
  generalize d.instr = i
  cases i with
  | lda m | ldx m | ldy m | sta m | stx m | sty m | inc m | dec m | and m | eor m | ora m | asl m
  | bit m | lsr m | rol m | ror m | adc m | sbc m | cmp m | cpx m | cpy m => cases m <;> rfl
  | _ => rfl

/-- Settles O43, by counting. -/
theorem opcodeTableCounts : Obligations.OpcodeTableCounts := by
  refine ⟨?length, ?distinct, ?implemented, ?unimplemented, ?unrecognized⟩ <;> decide +kernel

/-- Settles O44: each word is looked up in the default table. -/
theorem sampleWordsDecode : Obligations.SampleWordsDecode :=
  ⟨rfl, rfl, rfl, rfl, rfl, rfl, rfl, rfl, rfl, rfl, rfl⟩

end Sys2Proof

/-! ### Proofs of the family other: faults, and what a step does -/

namespace Sys2Proof.Machine

open Statements (afterFetch faultedStep)

/-! #### The fetched byte under the default table -/

theorem descriptorOf_of_lookup {table : OpcodeTable} {op : Byte} {d : Descriptor}
    (h : lookup table op = some d) : descriptorOf table op = d := by
  rw [descriptorOf, h, Option.getD_some]

theorem descriptorOf_of_lookup_none {table : OpcodeTable} {op : Byte}
    (h : lookup table op = none) : descriptorOf table op = ⟨op, .unrecognized op, 1⟩ := by
  rw [descriptorOf, h, Option.getD_none]

/-- A byte is unrecognized exactly where it decodes to the instruction named by itself (R97). -/
theorem decodeOpcode_eq_unrecognized_iff {op b : Byte} :
    decodeOpcode op = .unrecognized b ↔ op ∈ unrecognizedBytes ∧ b = op := by
  rcases descriptorOf_cases op with ⟨d, hd, rfl, -, he⟩ | ⟨hop, -, he⟩
  · have hrow : decodeOpcode d.byte = d.instr := congrArg Descriptor.instr he
    rw [hrow]
    exact ⟨fun h => absurd h (row_recognized d hd b),
      fun h => absurd h.1 (unrecognized_no_row d hd)⟩
  · have hrow : decodeOpcode op = .unrecognized op := congrArg Descriptor.instr he
    rw [hrow, Instr.unrecognized.injEq, eq_comm]
    exact ⟨fun h => ⟨hop, h⟩, fun h => h.2⟩

theorem decodeOpcode_eq_brk_iff {op : Byte} : decodeOpcode op = .brk ↔ op = 0x00#8 :=
  encodedBy_of_decodeOpcode (i := .brk) (op := 0x00#8) rfl op

/-! #### Fault entry in the statements' spelling -/

theorem fetched_raise_eq_faultedStep (s : State) (k : FaultKind) :
    s.fetched.raise k = faultedStep k s := fetched_raise s k

/-- A handler that raises ends the step there: `finish` does not advance PC (R129). -/
theorem stepWith_of_exec_raise {table : OpcodeTable} {s : State} {k : FaultKind}
    (hs : s.fault = none)
    (hexec : exec (descriptorOf table (s.memRead s.pc)).instr s.fetched =
      .next (s.fetched.raise k)) : stepWith table s = .next (faultedStep k s) := by
  rw [stepWith_of_none table hs, hexec, finish_raise, fetched_raise_eq_faultedStep]

theorem exec_of_unimplemented {i : Instr} (himpl : i.implemented = false)
    (hrec : ∀ op, i ≠ .unrecognized op) (s : State) :
    exec i s = .next (s.raise .unimplementedOpcode) := by
  rcases exec_cases i s with ⟨t, -, -, hi⟩ | ⟨-, hi, -⟩ | ⟨h, -⟩ | ⟨-, op, hop⟩
  · simp [himpl] at hi
  · simp [himpl] at hi
  · exact h
  · exact absurd hop (hrec op)

theorem stepWith_of_unimplemented {table : OpcodeTable} {s : State} (hs : s.fault = none)
    (himpl : (descriptorOf table (s.memRead s.pc)).instr.implemented = false)
    (hrec : ∀ op, (descriptorOf table (s.memRead s.pc)).instr ≠ .unrecognized op) :
    stepWith table s = .next (faultedStep .unimplementedOpcode s) :=
  stepWith_of_exec_raise hs (exec_of_unimplemented himpl hrec s.fetched)

theorem stepWith_of_lookup_none {table : OpcodeTable} {s : State} (hs : s.fault = none)
    (hnone : lookup table (s.memRead s.pc) = none) :
    stepWith table s = .next (faultedStep .unrecognizedOpcode s) := by
  refine stepWith_of_exec_raise hs ?_
  rw [descriptorOf_of_lookup_none hnone]
  rfl

/-! #### Everything a step of the default table can do -/

/-- A step of the default table completes, halts at 0x00, or takes the fault its byte calls for. No
row of the table has a mode its handler does not support. -/
theorem step_cases {s : State} (h : s.fault = none) :
    (∃ t, Completed (decodeOpcode (s.memRead s.pc)) s.fetched t ∧
      (decodeOpcode (s.memRead s.pc)).implemented = true ∧ s.memRead s.pc ≠ 0x00#8 ∧
      step s = .next (t.advance (lengthOf (s.memRead s.pc)))) ∨
    (s.memRead s.pc = 0x00#8 ∧ step s = .next s.fetched.halt) ∨
    (s.memRead s.pc ∉ unrecognizedBytes ∧
      (decodeOpcode (s.memRead s.pc)).implemented = false ∧
      step s = .next (faultedStep .unimplementedOpcode s)) ∨
    (s.memRead s.pc ∈ unrecognizedBytes ∧
      (decodeOpcode (s.memRead s.pc)).implemented = false ∧
      step s = .next (faultedStep .unrecognizedOpcode s)) := by
  rcases stepWith_cases opcodeTable h with
    ⟨t, -, hc, himpl, hbrk, hstep⟩ | ⟨hbrk, hstep⟩ | ⟨k, hstep, hk⟩
  · exact .inl ⟨t, hc, himpl, fun h0 => hbrk (decodeOpcode_eq_brk_iff.mpr h0), hstep⟩
  · exact .inr (.inl ⟨decodeOpcode_eq_brk_iff.mp hbrk, hstep⟩)
  · rw [fetched_raise_eq_faultedStep] at hstep
    rcases hk with ⟨-, -, -, hwf⟩ | ⟨rfl, himpl, hrec⟩ | ⟨rfl, op, hop⟩
    · exact absurd ((decodeOpcode_wf (s.memRead s.pc)).symm.trans hwf) nofun
    · refine .inr (.inr (.inl ⟨fun hmem => ?_, himpl, hstep⟩))
      exact hrec _ (decodeOpcode_eq_unrecognized_iff.mpr ⟨hmem, rfl⟩)
    · refine .inr (.inr (.inr ⟨?_, congrArg Instr.implemented hop, hstep⟩))
      exact (decodeOpcode_eq_unrecognized_iff.mp hop).1

/-! #### The invariant -/

theorem latchAgrees_of_fault_none {s : State} (h : s.fault = none) : s.latchAgrees := by
  intro r hr
  rw [h] at hr
  cases hr

/-- A faulting step's latch is precise where its kind is the one the table gives the fetched byte. -/
theorem latchAgrees_faultedStep {s : State} {k : FaultKind}
    (hk : (k = .unrecognizedOpcode ∧ s.memRead s.pc ∈ unrecognizedBytes) ∨
      (k = .unimplementedOpcode ∧ s.memRead s.pc ∉ unrecognizedBytes ∧
        (decodeOpcode (s.memRead s.pc)).implemented = false)) :
    (faultedStep k s).latchAgrees := by
  intro r hr
  obtain rfl := Option.some.inj hr
  exact ⟨rfl, rfl, rfl, hk⟩

theorem step_latchAgrees {s t : State} (h : step s = .next t) : t.latchAgrees := by
  have hs : s.fault = none := fault_none_of_next h
  rcases step_cases hs with ⟨u, hc, -, -, hu⟩ | ⟨-, hu⟩ | ⟨hop, himpl, hu⟩ | ⟨hop, -, hu⟩ <;>
    obtain rfl := Host.Outcome.next.inj (h.symm.trans hu)
  case inl => exact latchAgrees_of_fault_none (hc.fault.trans hs)
  case inr.inl => exact latchAgrees_of_fault_none hs
  case inr.inr.inl => exact latchAgrees_faultedStep (.inr ⟨rfl, hop, himpl⟩)
  case inr.inr.inr => exact latchAgrees_faultedStep (.inl ⟨rfl, hop⟩)

theorem stepWith_memory_wf {table : OpcodeTable} {s t : State} (hs : s.mem.wf)
    (h : stepWith table s = .next t) : t.mem.wf := by
  rcases stepWith_cases table (fault_none_of_next h) with
    ⟨u, -, hc, -, -, hu⟩ | ⟨-, hu⟩ | ⟨k, hu, -⟩ <;>
    obtain rfl := Host.Outcome.next.inj (h.symm.trans hu)
  case inl => exact hc.wf hs
  case inr.inl => exact hs
  case inr.inr => exact hs

/-- Settles O45: a step keeps each of the invariant's three parts; a set latch is the one this step
wrote. -/
theorem stepKeepsTheInvariant : Obligations.StepKeepsTheInvariant := by
  intro s t hs h
  exact ⟨stepWith_memory_wf hs.memory h, step_unsetFlagsClear hs.flags h, step_latchAgrees h⟩

/-- Settles O46: reset clears the latch and writes no memory. -/
theorem resetMeetsTheInvariant : Obligations.ResetMeetsTheInvariant := by
  refine ⟨⟨reset_memory_wf, ⟨rfl, rfl, rfl⟩, latchAgrees_of_fault_none rfl⟩, fun s hs => ?_⟩
  exact ⟨hs, doReset_unsetFlagsClear s, latchAgrees_of_fault_none rfl⟩

/-! #### The three outcomes -/

@[simp] theorem faultedStep_outcome (k : FaultKind) (s : State) :
    (faultedStep k s).outcome = .faulted := rfl

@[simp] theorem faultedStep_pc (k : FaultKind) (s : State) :
    (faultedStep k s).pc = s.pc + 1#16 := rfl

theorem Completed.outcome_advance {i : Instr} {s t : State} (hc : Completed i s t)
    (hi : i ≠ .brk) (hf : s.fault = none) (hh : s.halted = false) (n : Nat) :
    (t.advance n).outcome = .continued := by
  rw [State.outcome_continued_iff, State.advance_fault, State.advance_halted, hc.fault, hc.halted]
  simp [hf, hh, hi]

theorem outcome_fetched_halt {s : State} (h : s.fault = none) :
    s.fetched.halt.outcome = .halted := (State.outcome_halted_iff _).mpr ⟨h, rfl⟩

/-- The fetch's increment and the advance together move PC past the instruction (R121, R124). -/
theorem succ_add_lengthOf (pc : Addr) (op : Byte) :
    pc + 1#16 + BitVec.ofNat 16 (lengthOf op - 1) = pc + BitVec.ofNat 16 (lengthOf op) := by
  rw [lengthOf_eq, Nat.add_sub_cancel, Nat.add_comm, BitVec.ofNat_add, BitVec.add_assoc]

theorem implemented_of_zero {op : Byte} (h : op = 0x00#8) :
    (decodeOpcode op).implemented = true :=
  congrArg Instr.implemented (decodeOpcode_eq_brk_iff.mpr h)

/-- Settles O31: each way a step can go has one outcome. -/
theorem stepHasOneOfThreeOutcomes : Obligations.StepHasOneOfThreeOutcomes := by
  intro s hs
  rcases step_cases hs with
    ⟨t, hc, himpl, hop, hstep⟩ | ⟨hop, hstep⟩ | ⟨-, himpl, hstep⟩ | ⟨-, himpl, hstep⟩
  · have hgo := hc.outcome_advance (fun h => hop (decodeOpcode_eq_brk_iff.mp h)) hs rfl
      (lengthOf (s.memRead s.pc))
    refine ⟨_, hstep, ?_⟩
    simp [hgo, himpl, hop, hc.pc, hc.fault, hs, succ_add_lengthOf]
  · refine ⟨_, hstep, ?_⟩
    simp [outcome_fetched_halt hs, hop, implemented_of_zero, hs]
  all_goals
    have hop : s.memRead s.pc ≠ 0x00#8 := fun h => by simp [implemented_of_zero h] at himpl
    exact ⟨_, hstep, by simp [himpl, hop]⟩

/-- Settles O32: of the ways a step can go, only a raised fault sets the latch. -/
theorem faultingStepChangesOnlyPcAndLatch : Obligations.FaultingStepChangesOnlyPcAndLatch := by
  intro table s t h hout
  have hs : s.fault = none := fault_none_of_next h
  have ht : t.fault ≠ none := (State.outcome_faulted_iff t).mp hout
  rcases stepWith_cases table hs with ⟨u, -, hc, -, -, hu⟩ | ⟨-, hu⟩ | ⟨k, hu, -⟩ <;>
    obtain rfl := Host.Outcome.next.inj (h.symm.trans hu)
  case inl => exact absurd (hc.fault.trans hs) ht
  case inr.inl => exact absurd hs ht
  case inr.inr => exact ⟨k, fetched_raise_eq_faultedStep s k⟩

/-- Settles O34: the step reads only the fetched state, whose halted is false. -/
theorem haltIsNotLatched : Obligations.HaltIsNotLatched := fun _ _ => rfl

/-! #### The step as exec between fetch and advance -/

theorem fetched_eq_afterFetch (s : State) : s.fetched = afterFetch s := rfl

/-- Settles O30: the decoder's operand bytes are those the advance moves past. -/
theorem stepRunsTheDecodedInstruction : Obligations.StepRunsTheDecodedInstruction := by
  intro s d hs hd
  obtain ⟨hlen, rfl⟩ := decode_cons_eq_ok_iff.mp hd
  refine ⟨decodeOpcode_wf _, ?_⟩
  rw [step_of_none hs, fetched_eq_afterFetch, lengthOf_eq]
  dsimp only
  rw [List.length_take_of_le hlen]
  cases exec (decodeOpcode (s.memRead s.pc)) (afterFetch s) with
  | next t => cases h : t.outcome <;> simp [finish, h, State.advance]
  | fault r => rfl
  | refused r => rfl

/-! #### BRK and NOP -/

/-- An instruction of one byte has no operand bytes to move past. -/
theorem advance_one (s : State) : s.advance 1 = s := by simp [State.advance]

/-- Settles O24: BRK's handler writes the halt marker, NOP's writes nothing. -/
theorem haltAndNopChangeOnlyPc : Obligations.HaltAndNopChangeOnlyPc := by
  refine ⟨encodedBy_of_decodeOpcode rfl, encodedBy_of_decodeOpcode rfl,
    fun s => ⟨rfl, rfl⟩, fun s hs hop => ?_, fun s hs hop => ?_⟩
  · refine ⟨s.fetched.halt, ?_, outcome_fetched_halt hs, rfl⟩
    rw [step_of_none hs, hop]
    exact finish_ended (by simp [outcome_fetched_halt hs])
  · have hgo : s.fetched.outcome = .continued := (State.outcome_continued_iff _).mpr ⟨hs, rfl⟩
    refine ⟨s.fetched, ?_, hgo, rfl⟩
    rw [step_of_none hs, hop]
    change finish 1 (.next s.fetched) = .next s.fetched
    rw [finish_continued hgo, advance_one]

/-! #### A latched fault -/

theorem hostLoad_eq (program : List Byte) (s : State) :
    (hostLoad program s).1 = { s with mem := (hostLoad program s).1.mem } := by
  unfold hostLoad
  split
  · rfl
  · rw [State.memWrite16, writeBytes_eq]
    rfl

/-- Settles O33: of the host's actions reset alone writes the latch where no step is taken. -/
theorem noStepWhileFaultedAndOnlyResetClears :
    Obligations.NoStepWhileFaultedAndOnlyResetClears := by
  have hlatched : ∀ {s : State} {r : FaultRecord}, s.fault = some r → (s.hostAct .step).1 = s := by
    intro s r hr
    have hstep : step s = .fault (.latched r) := stepWith_of_latched opcodeTable hr
    simp only [State.hostAct, hstep]
  refine ⟨fun table _ _ hr => stepWith_of_latched table hr, fun _ _ hr => hlatched hr,
    fun s r act hr => ?_⟩
  cases act with
  | reset => exact ⟨fun _ => rfl, fun _ => rfl⟩
  | step => simp [hlatched hr, hr]
  | load program =>
    have hf : (hostLoad program s).1.fault = s.fault := by rw [hostLoad_eq]
    simp [State.hostAct, hf, hr]
  | peek addr => simp [State.hostAct, hr]
  | poke addr v => simp [State.hostAct, hr]
  | readRegisters => simp [State.hostAct, hr]

/-! #### Bytes without a row, and mnemonics without a handler -/

/-- Settles O28: a byte the lookup does not find is dispatched to its `unrecognized` instruction,
whose handler raises. -/
theorem byteOutsideTableFaults : Obligations.ByteOutsideTableFaults := by
  refine ⟨fun _ _ => rfl, fun table s hs hnone => stepWith_of_lookup_none hs hnone,
    lookup_eq_none_iff, rfl, by decide +kernel, fun s hs hop => ?_⟩
  exact stepWith_of_lookup_none hs ((lookup_eq_none_iff _).mpr hop)

theorem step_of_unimplemented {s : State} (hs : s.fault = none)
    (hop : s.memRead s.pc ∉ unrecognizedBytes)
    (himpl : (decodeOpcode (s.memRead s.pc)).implemented = false) :
    step s = .next (faultedStep .unimplementedOpcode s) :=
  stepWith_of_unimplemented hs himpl
    fun _ h => hop (decodeOpcode_eq_unrecognized_iff.mp h).1

/-- Settles O29: the row found gives the instruction, and without a handler its dispatch raises. -/
theorem recognizedMnemonicWithoutHandlerFaults :
    Obligations.RecognizedMnemonicWithoutHandlerFaults := by
  obtain ⟨-, -, -, hcount, -⟩ := opcodeTableCounts
  refine ⟨fun table s d hs hd himpl hrec => ?_, hcount,
    fun s hs hop himpl => step_of_unimplemented hs hop himpl⟩
  obtain rfl := descriptorOf_of_lookup hd
  exact stepWith_of_unimplemented hs himpl hrec

end Sys2Proof.Machine

/-! ### Proofs of the family other: flags never influence a run -/

namespace Sys2Proof.Machine

open Statements (SameButFlags RunsAgreeButFlags)

/-- Two answers that are alike but for the status register of the next state (R34). -/
inductive ResultsAgreeButFlags : Result → Result → Prop where
  | next {s t : State} (h : SameButFlags s t) : ResultsAgreeButFlags (.next s) (.next t)
  | fault (r : Fault) : ResultsAgreeButFlags (.fault r) (.fault r)
  | refused (r : Refusal) : ResultsAgreeButFlags (.refused r) (.refused r)

theorem sameButFlags_iff {s t : State} : SameButFlags s t ↔ ∃ q, t = { s with p := q } :=
  ⟨fun h => ⟨t.p, h⟩, fun ⟨_, h⟩ => by subst h; rfl⟩

theorem outcome_eq_of_sameButFlags {s t : State} (h : SameButFlags s t) : t.outcome = s.outcome := by
  obtain ⟨q, rfl⟩ := sameButFlags_iff.mp h
  rfl

theorem advance_sameButFlags {s t : State} (h : SameButFlags s t) (n : Nat) :
    SameButFlags (s.advance n) (t.advance n) := by
  obtain ⟨q, rfl⟩ := sameButFlags_iff.mp h
  rfl

/-! #### The handlers -/

theorem withAddress_sameButFlags (m : Mode) (s : State) (q : Status) {body body' : Addr → State}
    (h : ∀ e, SameButFlags (body e) (body' e)) :
    ResultsAgreeButFlags (withAddress m s body) (withAddress m { s with p := q } body') := by
  have hea : ea m { s with p := q } = ea m s := ea_congr m rfl rfl rfl rfl
  unfold withAddress
  rw [hea]
  cases ea m s with
  | some e => exact .next (h e)
  | none => exact .next rfl

/-- No handler reads a flag: changing P beforehand changes P alone afterwards. -/
theorem exec_sameButFlags (i : Instr) (s : State) (q : Status) :
    ResultsAgreeButFlags (exec i s) (exec i { s with p := q }) := by
  cases i with
  | lda m | ldx m | ldy m | sta m | stx m | sty m | inc m | dec m | and m | eor m | ora m =>
    exact withAddress_sameButFlags m s q fun _ => rfl
  | asl m =>
    by_cases hm : m = .noneAddressing
    · subst hm
      exact .next rfl
    · change ResultsAgreeButFlags (execAsl m s) (execAsl m { s with p := q })
      rw [execAsl_memory hm, execAsl_memory hm]
      exact withAddress_sameButFlags m s q fun _ => rfl
  | _ => exact .next rfl

/-! #### The step and the run -/

theorem finish_sameButFlags (n : Nat) {r r' : Result} (h : ResultsAgreeButFlags r r') :
    ResultsAgreeButFlags (finish n r) (finish n r') := by
  cases h with
  | @next t t' h =>
    have hout : t'.outcome = t.outcome := outcome_eq_of_sameButFlags h
    by_cases hgo : t.outcome = .continued
    · rw [finish_continued hgo, finish_continued (hout.trans hgo)]
      exact .next (advance_sameButFlags h n)
    · rw [finish_ended hgo, finish_ended (hout ▸ hgo)]
      exact .next h
  | fault r => exact .fault r
  | refused r => exact .refused r

theorem step_sameButFlags {s t : State} (h : SameButFlags s t) :
    ResultsAgreeButFlags (step s) (step t) := by
  obtain ⟨q, rfl⟩ := sameButFlags_iff.mp h
  rcases Option.eq_none_or_eq_some s.fault with hs | ⟨r, hs⟩
  · rw [step_of_none hs, step_of_none (s := { s with p := q }) hs]
    exact finish_sameButFlags _ (exec_sameButFlags _ s.fetched q)
  · rw [step, step, stepWith_of_latched (s := s) _ hs,
      stepWith_of_latched (s := { s with p := q }) _ hs]
    exact .fault _

/-- Settles O50, by induction on the number of steps: each step answers alike but for P, so both runs
end, stop or go on together. -/
theorem flagsNeverInfluenceARun : Obligations.FlagsNeverInfluenceARun := by
  intro n
  induction n with
  | zero => exact fun s t h => h
  | succ n ih =>
    intro s t h
    have hstep := step_sameButFlags h
    unfold runFor
    generalize step s = r, step t = r' at hstep
    cases hstep with
    | @next s' t' hst =>
      have hout : t'.outcome = s'.outcome := outcome_eq_of_sameButFlags hst
      cases hs' : s'.outcome <;> simp only [hout, hs']
      case continued => exact ih s' t' hst
      case halted | faulted => exact hst
    | fault r => exact rfl
    | refused r => exact rfl

end Sys2Proof.Machine

/-! ### Proofs of the family other: memory, the stack page, creation and reset -/

namespace Sys2Proof.Machine

open Statements (word)

/-! #### Canonical memory -/

theorem Memory.wf_cons {k : Nat} {v : Byte} {rest : Memory} (h : Memory.wf ((k, v) :: rest)) :
    (∀ c ∈ rest, k < c.1) ∧ k < Config.memSize ∧ v ≠ Params.memoryAtCreation ∧ rest.wf := by
  obtain ⟨hsorted, hcells⟩ := h
  obtain ⟨hhead, htail⟩ := List.pairwise_cons.mp hsorted
  obtain ⟨hk, hv⟩ := hcells (k, v) List.mem_cons_self
  exact ⟨hhead, hk, hv, htail, fun c hc => hcells c (List.mem_cons_of_mem _ hc)⟩

@[simp] theorem Memory.find_cons_same (k : Nat) (v : Byte) (rest : Memory) :
    Memory.find ((k, v) :: rest) k = v := if_pos rfl

theorem Memory.find_cons_other {k n : Nat} (v : Byte) (rest : Memory) (h : k ≠ n) :
    Memory.find ((k, v) :: rest) n = Memory.find rest n := if_neg h

/-- A canonical memory that lists `k` differs at `k` from one whose every entry lies above `k`. -/
theorem Memory.find_ne_of_all_gt {k : Nat} {v : Byte} {rest m : Memory}
    (h : Memory.wf ((k, v) :: rest)) (hm : ∀ c ∈ m, k < c.1) :
    Memory.find ((k, v) :: rest) k ≠ Memory.find m k := by
  obtain ⟨-, -, hv, -⟩ := Memory.wf_cons h
  rwa [Memory.find_cons_same, Memory.find_of_all_gt hm]

/-- Where the first entry's address is below another memory's first entry, it is below all of it. -/
theorem Memory.all_gt_of_lt {j k : Nat} {v : Byte} {rest : Memory} (h : Memory.wf ((k, v) :: rest))
    (hlt : j < k) : ∀ c ∈ (k, v) :: rest, j < c.1 := by
  obtain ⟨hhead, -⟩ := Memory.wf_cons h
  intro c hc
  rcases List.mem_cons.mp hc with rfl | hc
  · exact hlt
  · exact hlt.trans (hhead c hc)

/-- Two canonical memories that agree within the address space list the same bytes. -/
theorem Memory.eq_of_find_eq : ∀ {m k : Memory}, m.wf → k.wf →
    (∀ n, n < Config.memSize → m.find n = k.find n) → m = k
  | [], [], _, _, _ => rfl
  | [], (j, w) :: k, _, hk, heq => by
    obtain ⟨-, hj, -⟩ := Memory.wf_cons hk
    exact absurd (heq j hj).symm (Memory.find_ne_of_all_gt hk nofun)
  | (i, v) :: m, [], hm, _, heq => by
    obtain ⟨-, hi, -⟩ := Memory.wf_cons hm
    exact absurd (heq i hi) (Memory.find_ne_of_all_gt hm nofun)
  | (i, v) :: m, (j, w) :: k, hm, hk, heq => by
    obtain ⟨him, hi, -, hmwf⟩ := Memory.wf_cons hm
    obtain ⟨hjk, hj, -, hkwf⟩ := Memory.wf_cons hk
    rcases Nat.lt_trichotomy i j with hlt | rfl | hgt
    · exact absurd (heq i hi) (Memory.find_ne_of_all_gt hm (Memory.all_gt_of_lt hk hlt))
    · obtain rfl : v = w := by simpa using heq i hi
      have hrest : ∀ n, n < Config.memSize → Memory.find m n = Memory.find k n := by
        intro n hn
        by_cases hni : i = n
        · subst hni
          rw [Memory.find_of_all_gt him, Memory.find_of_all_gt hjk]
        · rw [← Memory.find_cons_other v m hni, ← Memory.find_cons_other v k hni, heq n hn]
      rw [Memory.eq_of_find_eq hmwf hkwf hrest]
    · exact absurd (heq j hj).symm (Memory.find_ne_of_all_gt hk (Memory.all_gt_of_lt hm hgt))

/-- Settles O8: a write keeps the form, and the reads give the list entry by entry. -/
theorem canonicalMemoryIsDeterminedByItsReads :
    Obligations.CanonicalMemoryIsDeterminedByItsReads := by
  refine ⟨fun m addr v hm => Memory.write_wf hm addr v, fun m k hm hk heq => ?_⟩
  refine Memory.eq_of_find_eq hm hk fun n hn => ?_
  simpa [Memory.read, Nat.mod_eq_of_lt (show n < 65536 from hn)] using heq (BitVec.ofNat 16 n)

/-! #### Pushes -/

theorem foldl_push_sp (vs : List Byte) : ∀ s : State,
    (vs.foldl State.push s).sp = s.sp - BitVec.ofNat 8 vs.length := by
  induction vs with
  | nil => simp
  | cons v vs ih =>
    intro s
    rw [List.foldl_cons, ih, State.push_sp, List.length_cons]
    bv_omega

theorem ne_stackAddr_of_outside {b : Addr} (h : b.toNat < 0x0100 ∨ 0x01FF < b.toNat) (sp : Byte) :
    b ≠ stackAddr sp := by
  rintro rfl
  rw [stackAddr_toNat] at h
  have := sp.isLt
  omega

/-- Pushes leave every byte outside the stack page as it was (R60, R64). -/
theorem foldl_push_memRead (vs : List Byte) {b : Addr}
    (h : b.toNat < 0x0100 ∨ 0x01FF < b.toNat) : ∀ s : State,
    (vs.foldl State.push s).memRead b = s.memRead b := by
  induction vs with
  | nil => exact fun _ => rfl
  | cons v vs ih =>
    intro s
    rw [List.foldl_cons, ih, memRead_push_other s v (ne_stackAddr_of_outside h s.sp)]

/-- Settles O10, by induction on the sequence of pushes. -/
theorem pushesWrapAndStayInStackPage : Obligations.PushesWrapAndStayInStackPage := by
  refine ⟨fun s v => ⟨rfl, memRead_push_same s v, fun b hb => memRead_push_other s v hb⟩,
    fun vs s => ⟨foldl_push_sp vs s, fun hlen => ?_, fun b hb => foldl_push_memRead vs hb s⟩⟩
  rw [foldl_push_sp, hlen]
  exact BitVec.sub_zero s.sp

/-! #### Creation and reset -/

/-- Settles O1: `State.reset` written out, over empty memory. -/
theorem resetStateValues : Obligations.ResetStateValues :=
  ⟨rfl, rfl, rfl, rfl, rfl, rfl, rfl, rfl, rfl, rfl, rfl, rfl, rfl, rfl, fun _ => rfl, rfl, rfl⟩

/-- Settles O2: PC is the word at the reset vector, and the status byte 0x84 has bits 2 and 7 set. -/
theorem resetFromAnyState : Obligations.ResetFromAnyState := by
  intro s
  have hpc : s.memRead16 0xFFFC#16 = word (s.memRead 0xFFFC#16) (s.memRead 0xFFFD#16) :=
    memRead16_eq_word s 0xFFFC#16
  rw [← hpc]
  rfl

/-- Settles O3: creation copies INIT_REGS over empty memory, where a reset finds the vector 0x0000. -/
theorem creationForEveryInitRegs : Obligations.CreationForEveryInitRegs :=
  fun _ => ⟨fun _ => rfl, rfl, rfl, rfl, rfl, rfl, rfl, rfl, rfl, rfl⟩

/-- Bit `k` of the status byte is its flag (R24), for all 256 values of the flags. -/
theorem Status.toByte_bits (p : Status) :
    p.toByte.getLsbD 0 = p.c ∧ p.toByte.getLsbD 1 = p.z ∧ p.toByte.getLsbD 2 = p.i ∧
    p.toByte.getLsbD 3 = p.d ∧ p.toByte.getLsbD 4 = p.b ∧ p.toByte.getLsbD 5 = p.b2 ∧
    p.toByte.getLsbD 6 = p.v ∧ p.toByte.getLsbD 7 = p.n := by
  obtain ⟨c, z, i, d, b, b2, v, n⟩ := p
  revert c z i d b b2 v n
  decide +kernel

theorem Status.ofByte_toByte (p : Status) : Status.ofByte p.toByte = p := by
  obtain ⟨hc, hz, hi, hd, hb, hb2, hv, hn⟩ := p.toByte_bits
  rw [Status.ofByte, hc, hz, hi, hd, hb, hb2, hv, hn]

/-- Settles O4: each bit of the byte is one flag. -/
theorem statusByteLayout : Obligations.StatusByteLayout :=
  fun p => ⟨p.ofByte_toByte, p.toByte_bits⟩

end Sys2Proof.Machine

/-! ### Proofs of the family other: the host interface and runs -/

namespace Sys2Proof.Machine

open Statements (faultedStep)

/-! #### Host actions -/

theorem hostAct_memory_wf {s : State} (act : HostAction) (hs : s.mem.wf) :
    (s.hostAct act).1.mem.wf := by
  cases act with
  | load program => exact hostLoad_wf hs program
  | reset => exact hs
  | step =>
    cases h : step s with
    | next t => simpa only [State.hostAct, h] using stepWith_memory_wf hs h
    | fault r => simpa only [State.hostAct, h] using hs
    | refused r => simpa only [State.hostAct, h] using hs
  | peek addr => exact hs
  | poke addr v => exact memWrite_wf hs addr v
  | readRegisters => exact hs

/-- Settles O47: load, step and poke write memory byte by byte; only step and reset write P. -/
theorem hostActionsKeepMemoryAndFlags : Obligations.HostActionsKeepMemoryAndFlags :=
  fun _ act => ⟨hostAct_memory_wf act, hostAct_unsetFlagsClear act⟩

/-- Settles O49: reset clears Break and Overflow and no host action sets them (R29, R32). -/
theorem breakAndOverflowAreNeverSetAfterReset :
    Obligations.BreakAndOverflowAreNeverSetAfterReset := by
  intro s hs
  obtain ⟨hb, -, hv⟩ := hs.unsetFlagsClear
  exact ⟨hb, hv⟩

/-! #### Load -/

theorem hostLoad_of_fits {program : List Byte} (h : program.length ≤ 0x8000) (s : State) :
    hostLoad program s =
      ((s.writeBytes 0x8000#16 program).memWrite16 0xFFFC#16 0x8000#16, .ok) := by
  refine if_neg ?_
  show ¬ 0x8000 + program.length > 65536
  omega

theorem hostLoad_of_overflow {program : List Byte} (h : 0x8000 < program.length) (s : State) :
    hostLoad program s = (s, .loadOverflow) := by
  refine if_pos ?_
  show 0x8000 + program.length > 65536
  omega

section
variable {program : List Byte} (hfits : program.length ≤ 0x8000) (s : State)
include hfits

theorem hostLoad_memRead16_vector :
    (hostLoad program s).1.memRead16 0xFFFC#16 = 0x8000#16 := by
  rw [hostLoad_of_fits hfits]
  exact memRead16_memWrite16 _ _ _

/-- Beside the vector's two bytes, a load is the program's bytes at the origin. -/
theorem hostLoad_memRead {b : Addr} (hlo : b ≠ 0xFFFC#16) (hhi : b ≠ 0xFFFD#16) :
    (hostLoad program s).1.memRead b =
      if 0x8000 ≤ b.toNat then program.getD (b.toNat - 0x8000) (s.memRead b)
      else s.memRead b := by
  rw [hostLoad_of_fits hfits, memRead_memWrite16_other _ _ hlo hhi]
  refine writeBytes_memRead program s 0x8000#16 b ?_
  show 0x8000 + program.length ≤ 65536
  omega

theorem hostLoad_memRead_program {k : Nat} (hk : k < program.length) (hlo : k ≠ 0x7FFC)
    (hhi : k ≠ 0x7FFD) :
    (hostLoad program s).1.memRead (0x8000#16 + BitVec.ofNat 16 k) = program[k] := by
  have haddr : (0x8000#16 + BitVec.ofNat 16 k).toNat = 0x8000 + k := by
    rw [BitVec.toNat_add, BitVec.toNat_ofNat, BitVec.toNat_ofNat]
    omega
  rw [hostLoad_memRead hfits s (by bv_omega) (by bv_omega), haddr, if_pos (by omega),
    Nat.add_sub_cancel_left, List.getD_eq_getElem _ _ hk]

theorem hostLoad_memRead_other {b : Addr} (hlo : b ≠ 0xFFFC#16) (hhi : b ≠ 0xFFFD#16)
    (hb : b.toNat < 0x8000 ∨ 0x8000 + program.length ≤ b.toNat) :
    (hostLoad program s).1.memRead b = s.memRead b := by
  rw [hostLoad_memRead hfits s hlo hhi]
  split
  · exact List.getD_eq_default _ _ (by omega)
  · rfl

end

/-- Settles O51: the vector is written over the program, which is written over memory. -/
theorem loadPlacesProgramAndVector : Obligations.LoadPlacesProgramAndVector := by
  refine ⟨fun s program hfits => ⟨?_, ?_, ?_, fun k hk hlo hhi => ?_, fun b hlo hhi hb => ?_,
    hostLoad_eq program s⟩, fun s program h => hostLoad_of_overflow h s⟩
  · rw [hostLoad_of_fits hfits]
  · rw [hostLoad_of_fits hfits]
    exact memRead_memWrite16_low _ _ _
  · rw [hostLoad_of_fits hfits]
    exact memRead_memWrite16_high _ 0xFFFC#16 _
  · exact hostLoad_memRead_program hfits s hk hlo hhi
  · exact hostLoad_memRead_other hfits s hlo hhi hb

/-- Settles O52: reset reads back the vector the load wrote, and writes no memory. -/
theorem loadThenResetStartsAtTheProgram : Obligations.LoadThenResetStartsAtTheProgram := by
  refine fun s program n => ⟨fun hfits => ⟨hostLoad_memRead16_vector hfits s, fun hpos => ?_, rfl,
    ?_⟩, fun h => ?_⟩
  · exact hostLoad_memRead_program hfits s hpos (by decide) (by decide)
  · rw [loadAndRunFor, hostLoad_of_fits hfits]
  · rw [loadAndRunFor, hostLoad_of_overflow h]

/-! #### Runs -/

theorem runFor_of_continued {s t : State} (hstep : step s = .next t)
    (hgo : t.outcome = .continued) (n : Nat) : runFor (n + 1) s = runFor n t := by
  rw [runFor, hstep]
  dsimp only
  rw [hgo]

theorem runFor_of_ended {s t : State} (hstep : step s = .next t)
    (hend : t.outcome ≠ .continued) (n : Nat) : runFor (n + 1) s = .ended t := by
  rw [runFor, hstep]
  dsimp only
  cases ho : t.outcome
  · exact absurd ho hend
  · rfl
  · rfl

/-- A watched run that ends took a step, and ended there or in the run that is left. -/
theorem runFor_succ_ended {n : Nat} {s u : State} (h : runFor (n + 1) s = .ended u) :
    ∃ t, step s = .next t ∧
      ((t.outcome ≠ .continued ∧ t = u) ∨ (t.outcome = .continued ∧ runFor n t = .ended u)) := by
  cases hstep : step s with
  | next t =>
    refine ⟨t, rfl, ?_⟩
    by_cases hgo : t.outcome = .continued
    · exact .inr ⟨hgo, (runFor_of_continued hstep hgo n).symm.trans h⟩
    · exact .inl ⟨hgo, RunResult.ended.inj ((runFor_of_ended hstep hgo n).symm.trans h)⟩
  | fault r => simp [runFor, hstep] at h
  | refused r => simp [runFor, hstep] at h

theorem exists_runFor_of_runEnds {s t : State} (h : RunEnds s t) : ∃ n, runFor n s = .ended t := by
  induction h with
  | last hstep hend => exact ⟨1, runFor_of_ended hstep hend 0⟩
  | more hstep hgo _ ih =>
    obtain ⟨n, hn⟩ := ih
    exact ⟨n + 1, (runFor_of_continued hstep hgo n).trans hn⟩

theorem runEnds_of_runFor {u : State} (n : Nat) : ∀ {s : State}, runFor n s = .ended u →
    RunEnds s u := by
  induction n with
  | zero => exact nofun
  | succ n ih =>
    intro s h
    obtain ⟨t, hstep, ⟨hend, rfl⟩ | ⟨hgo, hrest⟩⟩ := runFor_succ_ended h
    · exact .last hstep hend
    · exact .more hstep hgo (ih hrest)

/-- Settles O53, by induction on the run and on the number of steps watched. -/
theorem runIsRepeatedStep : Obligations.RunIsRepeatedStep :=
  fun _ _ => ⟨exists_runFor_of_runEnds, fun ⟨n, h⟩ => runEnds_of_runFor n h⟩

/-- The state a run ends in is the one its last step left. -/
theorem RunEnds.last_step {s t : State} (h : RunEnds s t) :
    ∃ u, step u = .next t ∧ t.outcome ≠ .continued := by
  induction h with
  | @last s t hstep hend => exact ⟨s, hstep, hend⟩
  | more _ _ _ ih => exact ih

theorem fetched_halt_memRead_pred_pc (s : State) :
    s.fetched.halt.memRead (s.fetched.halt.pc - 1#16) = s.memRead s.pc := by
  rw [State.halt_pc, State.fetched_pc, BitVec.add_sub_cancel]
  rfl

theorem faultedStep_ends (k : FaultKind) (s : State) :
    (faultedStep k s).finalFaulted ∧ ¬ (faultedStep k s).successfulEnd ∧
      ∃ r, (faultedStep k s).fault = some r ∧
        (faultedStep k s).pc = r.addr + 1#16 ∧
        (faultedStep k s).memRead r.addr = r.opcode :=
  ⟨⟨_, rfl⟩, nofun, _, rfl, rfl, rfl⟩

/-- Settles O54: of the ways a step can go, the run's last one halted or faulted. -/
theorem runEndsHaltedOrFaulted : Obligations.RunEndsHaltedOrFaulted := by
  intro s t h
  obtain ⟨u, hstep, hend⟩ := h.last_step
  have hu : u.fault = none := fault_none_of_next hstep
  rcases step_cases hu with
    ⟨v, hc, -, hop, hv⟩ | ⟨hop, hv⟩ | ⟨-, -, hv⟩ | ⟨-, -, hv⟩ <;>
    obtain rfl := Host.Outcome.next.inj (hstep.symm.trans hv)
  · exact absurd (hc.outcome_advance (fun hb => hop (decodeOpcode_eq_brk_iff.mp hb)) hu rfl _) hend
  · exact .inl ⟨outcome_fetched_halt hu, hu, (fetched_halt_memRead_pred_pc u).trans hop⟩
  · exact .inr (faultedStep_ends _ u)
  · exact .inr (faultedStep_ends _ u)

/-- A step at 0xEA continues, with no fault and memory as it was (R127). -/
theorem step_of_nop {s : State} (hs : s.fault = none) (hop : s.memRead s.pc = 0xEA#8) :
    ∃ t, step s = .next t ∧ t.outcome = .continued ∧
      t = { s with pc := s.pc + 1#16, halted := false } := by
  obtain ⟨-, -, -, -, hnop⟩ := haltAndNopChangeOnlyPc
  exact hnop s hs hop

/-- Settles O55, by induction on the number of steps: a NOP's step leaves memory all 0xEA. -/
theorem nopMemoryRunsForever : Obligations.NopMemoryRunsForever := by
  intro s hs hmem n
  induction n generalizing s with
  | zero => exact ⟨s, rfl⟩
  | succ n ih =>
    obtain ⟨t, hstep, hgo, ht⟩ := step_of_nop hs (hmem s.pc)
    rw [runFor_of_continued hstep hgo]
    subst ht
    exact ih _ hs hmem

end Sys2Proof.Machine

/-! ### Proofs of the family other: loads, stores, INC, DEC, logic and PLA -/

namespace Sys2Proof.Machine

open Statements (EncodedByModes FaultsWithoutAddress LoadsByte StoresByte faultedStep withZN)

/-! #### Rows of a mnemonic, by deciding over the ten modes -/

/-- Every addressing mode, for statements decided mode by mode. -/
def allModes : List Mode :=
  [.immediate, .zeroPage, .zeroPageX, .zeroPageY, .absolute, .absoluteX, .absoluteY, .indirectX,
    .indirectY, .noneAddressing]

theorem mem_allModes (m : Mode) : m ∈ allModes := by cases m <;> decide

/-- Rows that the encoder gives back, among them the byte it gives each mode, are all a mnemonic's
rows. -/
theorem encodedByModes_of_allModes {mnemonic : Mode → Instr} {rows : List (Byte × Mode)}
    (hrows : ∀ row ∈ rows,
      (mnemonic row.2).wf = true ∧ opcodeOf (mnemonic row.2) = some row.1)
    (hop : ∀ m ∈ allModes, (opcodeOf (mnemonic m)).all fun b => rows.contains (b, m)) :
    EncodedByModes mnemonic rows := by
  refine encodedByModes_of_rows (fun row hrow => ?_) fun m b hb => ?_
  · obtain ⟨hwf, henc⟩ := hrows row hrow
    exact decodeOpcode_of_opcodeOf hwf henc
  · simpa [hb] using hop m (mem_allModes m)

/-! #### What the shared handler bodies do at a resolved address -/

theorem loadReg_eq (r : Reg) {m : Mode} {s : State} {e : Addr} (he : ea m s = some e) :
    loadReg r m s =
      .next { s.setReg r (s.memRead e) with p := withZN s.p (s.memRead e) } := by
  rw [loadReg, withAddress_some he]
  exact writeRegZN_eq r (s.memRead e) s

theorem storeReg_eq (r : Reg) {m : Mode} {s : State} {e : Addr} (he : ea m s = some e) :
    storeReg r m s = .next (s.memWrite e (s.reg r)) := withAddress_some he _

theorem modifyMem_eq (f : Byte → Byte) {m : Mode} {s : State} {e : Addr} (he : ea m s = some e) :
    modifyMem f m s =
      .next { s.memWrite e (f (s.memRead e)) with p := withZN s.p (f (s.memRead e)) } := by
  rw [modifyMem, withAddress_some he, State.setZN, Status.setZN_eq_withZN, State.memWrite_p]

theorem combineA_eq (f : Byte → Byte → Byte) {m : Mode} {s : State} {e : Addr}
    (he : ea m s = some e) :
    combineA f m s =
      .next { s with a := f s.a (s.memRead e), p := withZN s.p (f s.a (s.memRead e)) } := by
  rw [combineA, withAddress_some he]
  exact writeRegZN_eq .a (f s.a (s.memRead e)) s

theorem loadsByte_of_exec {mnemonic : Mode → Instr} {r : Reg}
    (h : ∀ m s, exec (mnemonic m) s = loadReg r m s) :
    LoadsByte mnemonic fun s v => s.setReg r v := by
  intro m s hm
  obtain ⟨e, he⟩ := ea_isSome hm s
  exact ⟨e, he, (h m s).trans (loadReg_eq r he)⟩

theorem storesByte_of_exec {mnemonic : Mode → Instr} {r : Reg}
    (h : ∀ m s, exec (mnemonic m) s = storeReg r m s) :
    StoresByte mnemonic fun s => s.reg r := by
  intro m s hm
  obtain ⟨e, he⟩ := ea_isSome hm s
  exact ⟨e, _, he, (h m s).trans (storeReg_eq r he), memRead_memWrite_same s e _,
    fun _ hb => memRead_memWrite_other s _ hb, rfl⟩

/-! #### NoneAddressing -/

/-- A handler that resolves an address first faults where there is none (R80, R302). -/
theorem faultsWithoutAddress_of_exec {mnemonic : Mode → Instr} {body : State → Addr → State}
    (h : ∀ m s, exec (mnemonic m) s = withAddress m s (body s)) :
    FaultsWithoutAddress mnemonic :=
  fun s => (h .noneAddressing s).trans (withAddress_none s (body s))

theorem step_kind_ne_unsupported {s t : State} {r : FaultRecord} (h : step s = .next t)
    (hr : t.fault = some r) : r.kind ≠ .unsupportedAddressingMode := by
  obtain ⟨-, -, -, ⟨hk, -⟩ | ⟨hk, -⟩⟩ := step_latchAgrees h r hr <;> simp [hk]

/-- Settles O14: the eleven handlers resolve first, and the default table's faults are the two other
kinds. -/
theorem handlersFaultWithoutAddress : Obligations.HandlersFaultWithoutAddress := by
  refine ⟨ea_eq_none_iff, ?lda, ?ldx, ?ldy, ?sta, ?stx, ?sty, ?inc, ?dec, ?and, ?eor, ?ora,
    fun table s d hs hd hi => ?table, fun _ _ _ h hr => step_kind_ne_unsupported h hr⟩
  case table =>
    refine stepWith_of_exec_raise hs ?_
    rw [descriptorOf_of_lookup hd]
    simp only [List.mem_cons, List.not_mem_nil, or_false] at hi
    rcases hi with hi | hi | hi | hi | hi | hi | hi | hi | hi | hi | hi <;> rw [hi] <;> rfl
  all_goals exact faultsWithoutAddress_of_exec fun _ _ => rfl

/-! #### The implemented mnemonics with a mode -/

/-- Settles O15: LDA, LDX and LDY are one handler body over three registers (R160 to R162). -/
theorem loadsWriteRegisterAndZN : Obligations.LoadsWriteRegisterAndZN :=
  ⟨encodedByModes_of_allModes (by decide) (by decide),
    encodedByModes_of_allModes (by decide) (by decide),
    encodedByModes_of_allModes (by decide) (by decide),
    loadsByte_of_exec (r := .a) fun _ _ => rfl, faultsWithoutAddress_of_exec fun _ _ => rfl,
    loadsByte_of_exec (r := .x) fun _ _ => rfl, faultsWithoutAddress_of_exec fun _ _ => rfl,
    loadsByte_of_exec (r := .y) fun _ _ => rfl, faultsWithoutAddress_of_exec fun _ _ => rfl⟩

/-- Settles O16: STA, STX and STY are one handler body over three registers (R163 to R165). -/
theorem storesWriteOneByteNoFlag : Obligations.StoresWriteOneByteNoFlag :=
  ⟨encodedByModes_of_allModes (by decide) (by decide),
    decodeOpcode_eq_unrecognized_iff.mpr ⟨by decide, rfl⟩,
    encodedByModes_of_allModes (by decide) (by decide),
    encodedByModes_of_allModes (by decide) (by decide),
    storesByte_of_exec (r := .a) fun _ _ => rfl, faultsWithoutAddress_of_exec fun _ _ => rfl,
    storesByte_of_exec (r := .x) fun _ _ => rfl, faultsWithoutAddress_of_exec fun _ _ => rfl,
    storesByte_of_exec (r := .y) fun _ _ => rfl, faultsWithoutAddress_of_exec fun _ _ => rfl⟩

theorem add_one_eq_ofNat (v : Byte) : v + 1#8 = BitVec.ofNat 8 (v.toNat + 1) := by bv_omega

theorem sub_one_eq_ofNat (v : Byte) : v - 1#8 = BitVec.ofNat 8 (v.toNat + 255) := by bv_omega

/-- Settles O18: INC and DEC write back the byte plus or minus one, then P, whose Carry SetZN leaves
(R200, R201). -/
theorem memoryIncDecWraps : Obligations.MemoryIncDecWraps := by
  refine ⟨encodedByModes_of_allModes (by decide) (by decide),
    encodedByModes_of_allModes (by decide) (by decide),
    modifiesByte_of_exec fun m s e he => ?_, modifiesByte_of_exec fun m s e he => ?_,
    faultsWithoutAddress_of_exec fun _ _ => rfl, faultsWithoutAddress_of_exec fun _ _ => rfl⟩
  · rw [← add_one_eq_ofNat]
    exact modifyMem_eq (· + 1#8) he
  · rw [← sub_one_eq_ofNat]
    exact modifyMem_eq (· - 1#8) he

/-- Settles O20: AND, EOR and ORA are one handler body over three functions (R220 to R222). -/
theorem logicalOperationsCombineIntoA : Obligations.LogicalOperationsCombineIntoA := by
  refine ⟨encodedByModes_of_allModes (by decide) (by decide),
    encodedByModes_of_allModes (by decide) (by decide),
    encodedByModes_of_allModes (by decide) (by decide), fun m s hm => ?_,
    faultsWithoutAddress_of_exec fun _ _ => rfl, faultsWithoutAddress_of_exec fun _ _ => rfl,
    faultsWithoutAddress_of_exec fun _ _ => rfl⟩
  obtain ⟨e, he⟩ := ea_isSome hm s
  exact ⟨e, he, combineA_eq (· &&& ·) he, combineA_eq (· ^^^ ·) he, combineA_eq (· ||| ·) he⟩

/-- Settles O22: PLA is a pop into A, and PLA_SETS_ZN decides whether Z and N follow (R240). -/
theorem pullAccumulatorReadsAboveStackPointer :
    Obligations.PullAccumulatorReadsAboveStackPointer := by
  refine ⟨encodedBy_of_decodeOpcode rfl, fun s => ⟨?_, rfl⟩⟩
  exact writeRegZN_eq .a s.pop.1 s.pop.2

end Sys2Proof.Machine

/-! ### Proofs of the family other: the mnemonics without a handler -/

namespace Sys2Proof.Machine

open Statements (TakesUnimplementedFault StepsToUnimplementedFault)

theorem takesUnimplementedFault {i : Instr} (himpl : i.implemented = false)
    (hrec : ∀ op, i ≠ .unrecognized op) : TakesUnimplementedFault i :=
  exec_of_unimplemented himpl hrec

theorem stepsToUnimplementedFault {ops : List Byte}
    (h : ∀ op ∈ ops, op ∉ unrecognizedBytes ∧ (decodeOpcode op).implemented = false) :
    StepsToUnimplementedFault ops := by
  intro s hs hop
  obtain ⟨hrec, himpl⟩ := h _ hop
  exact step_of_unimplemented hs hrec himpl

/-- Settles O25: each byte's row names a mnemonic without a handler (R130 to R141). -/
theorem controlTransfersAreUnimplemented : Obligations.ControlTransfersAreUnimplemented := by
  refine ⟨encodedBy_of_decodeOpcode rfl, encodedBy_of_decodeOpcode rfl,
    encodedBy_of_decodeOpcode rfl, encodedBy_of_decodeOpcode rfl, encodedBy_of_decodeOpcode rfl,
    encodedBy_of_decodeOpcode rfl, encodedBy_of_decodeOpcode rfl, encodedBy_of_decodeOpcode rfl,
    encodedBy_of_decodeOpcode rfl, encodedBy_of_decodeOpcode rfl, encodedBy_of_decodeOpcode rfl,
    encodedBy_of_decodeOpcode rfl, encodedBy_of_decodeOpcode rfl, ?_,
    stepsToUnimplementedFault (by decide +kernel)⟩
  intro i hi
  fin_cases hi <;> exact takesUnimplementedFault rfl nofun

/-- Settles O26: the fault is raised at dispatch, whatever the mode (R224 to R227, R241, R242, R250). -/
theorem shiftsBitAndPushesAreUnimplemented : Obligations.ShiftsBitAndPushesAreUnimplemented :=
  ⟨encodedByModes_of_allModes (by decide) (by decide),
    encodedByModes_of_allModes (by decide) (by decide),
    encodedByModes_of_allModes (by decide) (by decide),
    encodedByModes_of_allModes (by decide) (by decide),
    encodedBy_of_decodeOpcode rfl, encodedBy_of_decodeOpcode rfl, encodedBy_of_decodeOpcode rfl,
    fun _ => ⟨takesUnimplementedFault rfl nofun, takesUnimplementedFault rfl nofun,
      takesUnimplementedFault rfl nofun, takesUnimplementedFault rfl nofun⟩,
    takesUnimplementedFault rfl nofun, takesUnimplementedFault rfl nofun,
    takesUnimplementedFault rfl nofun, stepsToUnimplementedFault (by decide +kernel)⟩

/-- Settles O27: the fault is raised at dispatch, whatever the mode (R260 to R264). -/
theorem arithmeticAndComparesAreUnimplemented :
    Obligations.ArithmeticAndComparesAreUnimplemented :=
  ⟨encodedByModes_of_allModes (by decide) (by decide),
    encodedByModes_of_allModes (by decide) (by decide),
    encodedByModes_of_allModes (by decide) (by decide),
    encodedByModes_of_allModes (by decide) (by decide),
    encodedByModes_of_allModes (by decide) (by decide),
    fun _ => ⟨takesUnimplementedFault rfl nofun, takesUnimplementedFault rfl nofun,
      takesUnimplementedFault rfl nofun, takesUnimplementedFault rfl nofun,
      takesUnimplementedFault rfl nofun⟩,
    stepsToUnimplementedFault (by decide +kernel)⟩

end Sys2Proof.Machine

/-! ### Proofs of the family other: frames over every instruction, and a store into the next fetch -/

namespace Sys2Proof.Machine

open Statements (afterFetch)

/-! #### What the shared handler bodies can answer -/

theorem withAddress_next {m : Mode} {s t : State} {body : Addr → State}
    (h : withAddress m s body = .next t) :
    (∃ e, ea m s = some e ∧ t = body e) ∨ t = s.raise .unsupportedAddressingMode := by
  rcases withAddress_cases m s body with ⟨e, he, hr⟩ | ⟨-, hr⟩
  · exact .inl ⟨e, he, Host.Outcome.next.inj (h.symm.trans hr)⟩
  · exact .inr (Host.Outcome.next.inj (h.symm.trans hr))

theorem loadReg_next {r : Reg} {m : Mode} {s t : State} (h : loadReg r m s = .next t) :
    (∃ v, t = (s.setReg r v).setZN v) ∨ t = s.raise .unsupportedAddressingMode :=
  (withAddress_next h).imp_left fun ⟨_, _, ht⟩ => ⟨_, ht⟩

theorem storeReg_next {r : Reg} {m : Mode} {s t : State} (h : storeReg r m s = .next t) :
    (∃ e v, ea m s = some e ∧ t = s.memWrite e v) ∨ t = s.raise .unsupportedAddressingMode :=
  (withAddress_next h).imp_left fun ⟨e, he, ht⟩ => ⟨e, _, he, ht⟩

theorem modifyMem_next {f : Byte → Byte} {m : Mode} {s t : State}
    (h : modifyMem f m s = .next t) :
    (∃ e v, ea m s = some e ∧ t = (s.memWrite e v).setZN v) ∨
      t = s.raise .unsupportedAddressingMode :=
  (withAddress_next h).imp_left fun ⟨e, he, ht⟩ => ⟨e, _, he, ht⟩

theorem exec_inc_next {m : Mode} {s t : State} (h : exec (.inc m) s = .next t) :
    (∃ e v, ea m s = some e ∧ t = (s.memWrite e v).setZN v) ∨
      t = s.raise .unsupportedAddressingMode := modifyMem_next (f := (· + 1#8)) h

theorem exec_dec_next {m : Mode} {s t : State} (h : exec (.dec m) s = .next t) :
    (∃ e v, ea m s = some e ∧ t = (s.memWrite e v).setZN v) ∨
      t = s.raise .unsupportedAddressingMode := modifyMem_next (f := (· - 1#8)) h

theorem combineA_next {f : Byte → Byte → Byte} {m : Mode} {s t : State}
    (h : combineA f m s = .next t) :
    (∃ v, t = (s.setReg .a v).setZN v) ∨ t = s.raise .unsupportedAddressingMode :=
  (withAddress_next h).imp_left fun ⟨_, _, ht⟩ => ⟨_, ht⟩

/-- ASL answers a shifted accumulator where there is no address, and a shifted byte where there is. -/
theorem execAsl_next {m : Mode} {s t : State} (h : execAsl m s = .next t) :
    (m = .noneAddressing ∧ ∃ c v, t = ((s.writeFlag .carry c).setReg .a v).setZN v) ∨
      ∃ e c v, ea m s = some e ∧ t = ((s.writeFlag .carry c).memWrite e v).setZN v := by
  by_cases hm : m = .noneAddressing
  · subst hm
    exact .inl ⟨rfl, _, _, (Host.Outcome.next.inj h).symm⟩
  · obtain ⟨e, he⟩ := ea_isSome hm s
    rw [execAsl_memory hm, withAddress_some he] at h
    exact .inr ⟨e, _, _, he, (Host.Outcome.next.inj h).symm⟩

/-! #### Registers -/

/-- Settles O36: each handler body writes the registers it names and no other, and none writes PC. -/
theorem registersChangeOnlyByTheirWriters : Obligations.RegistersChangeOnlyByTheirWriters := by
  intro i s t h
  cases i
  case lda m | ldx m | ldy m => obtain ⟨v, rfl⟩ | rfl := loadReg_next h <;> simp
  case sta m | stx m | sty m => obtain ⟨e, v, -, rfl⟩ | rfl := storeReg_next h <;> simp
  case inc m => obtain ⟨e, v, -, rfl⟩ | rfl := exec_inc_next h <;> simp
  case dec m => obtain ⟨e, v, -, rfl⟩ | rfl := exec_dec_next h <;> simp
  case and m | eor m | ora m => obtain ⟨v, rfl⟩ | rfl := combineA_next h <;> simp
  case asl m =>
    obtain ⟨rfl, c, v, rfl⟩ | ⟨e, c, v, he, rfl⟩ := execAsl_next h
    · simp
    · cases m <;> simp
  all_goals
    obtain rfl := Host.Outcome.next.inj h
    simp [plaWith, Params.plaSetsZN]

/-! #### Flags -/

/-- Settles O37: SetZN writes Z and N alone, and a flag instruction writes the one flag it names. -/
theorem flagsChangeOnlyByTheirWriters : Obligations.FlagsChangeOnlyByTheirWriters := by
  intro i s t h
  cases i
  case lda m | ldx m | ldy m => obtain ⟨v, rfl⟩ | rfl := loadReg_next h <;> simp
  case sta m | stx m | sty m => obtain ⟨e, v, -, rfl⟩ | rfl := storeReg_next h <;> simp
  case inc m => obtain ⟨e, v, -, rfl⟩ | rfl := exec_inc_next h <;> simp
  case dec m => obtain ⟨e, v, -, rfl⟩ | rfl := exec_dec_next h <;> simp
  case and m | eor m | ora m => obtain ⟨v, rfl⟩ | rfl := combineA_next h <;> simp
  case asl m =>
    obtain ⟨-, c, v, rfl⟩ | ⟨e, c, v, -, rfl⟩ := execAsl_next h <;> simp [Status.writeFlag]
  all_goals
    obtain rfl := Host.Outcome.next.inj h
    simp [plaWith, Params.plaSetsZN, Status.writeFlag]

/-! #### Memory -/

/-- A state whose memory is one byte written at `e` reads as before at every other address. -/
theorem memRead_of_mem_write {s t : State} {e b : Addr} {v : Byte} (ht : t.mem = s.mem.write e v)
    (hb : some e ≠ some b) : t.memRead b = s.memRead b := by
  rw [State.memRead_eq, ht, Memory.read_write_other _ _ fun h => hb (congrArg some h.symm)]
  rfl

/-- A storing form's memory frame, from what a completed handler does to memory (Laws/Exec.lean). -/
theorem exec_memRead_other {i : Instr} {s t : State} (h : exec i s = .next t) {b : Addr}
    (hb : ea i.mode s ≠ some b) : t.memRead b = s.memRead b := by
  rcases exec_cases i s with ⟨u, hu, hc, -⟩ | ⟨hu, -⟩ | ⟨hu, -⟩ | ⟨hu, -⟩ <;>
    obtain rfl := Host.Outcome.next.inj (h.symm.trans hu)
  case inl =>
    rcases hc.memory with hm | ⟨e, v, he, hm⟩
    · exact State.memRead_congr hm b
    · exact memRead_of_mem_write hm (he ▸ hb)
  all_goals rfl

/-- Settles O38: the storing forms write at their effective address, and no other form writes. -/
theorem memoryChangesOnlyAtTheStoredAddress :
    Obligations.MemoryChangesOnlyAtTheStoredAddress := by
  intro i s t h
  cases i
  case sta m | stx m | sty m | inc m | dec m | asl m => exact fun b hb => exec_memRead_other h hb
  case lda m | ldx m | ldy m =>
    obtain ⟨v, rfl⟩ | rfl := loadReg_next h <;> exact fun b => State.memRead_congr (by simp) b
  case and m | eor m | ora m =>
    obtain ⟨v, rfl⟩ | rfl := combineA_next h <;> exact fun b => State.memRead_congr (by simp) b
  all_goals
    obtain rfl := Host.Outcome.next.inj h
    exact fun b => rfl

/-! #### The latch and the halt marker -/

/-- Settles O39: only a raised fault writes the latch, and of the completed handlers only BRK's writes
halted. -/
theorem latchAndHaltChangeOnlyByTheirWriters :
    Obligations.LatchAndHaltChangeOnlyByTheirWriters := by
  intro i s t h
  rcases exec_cases i s with ⟨u, hu, hc, -⟩ | ⟨hu, himpl, -, hwf⟩ | ⟨hu, himpl, -⟩ | ⟨hu, op, rfl⟩ <;>
    obtain rfl := Host.Outcome.next.inj (h.symm.trans hu)
  · refine ⟨fun _ _ => hc.fault, fun hi => ?_, fun hi => ?_⟩ <;> simp [hc.halted, hi]
  · refine ⟨fun _ h => ?_, fun _ => rfl, ?_⟩
    · simp [hwf] at h
    · rintro rfl
      cases hwf
  · refine ⟨fun h => ?_, fun _ => rfl, ?_⟩
    · simp [himpl] at h
    · rintro rfl
      cases himpl
  · exact ⟨nofun, fun _ => rfl, nofun⟩

/-! #### A store into the next instruction -/

/-- A step that stores a register completes, so it advances PC past the operand bytes. -/
theorem step_of_storeReg {s : State} {r : Reg} {m : Mode} {e : Addr} (hs : s.fault = none)
    (hexec : exec (decodeOpcode (s.memRead s.pc)) s.fetched = storeReg r m s.fetched)
    (he : ea m s.fetched = some e) :
    step s = .next ((s.fetched.memWrite e (s.fetched.reg r)).advance
      (lengthOf (s.memRead s.pc))) := by
  rw [step_of_none hs, hexec, storeReg_eq r he, finish_continued]
  exact (State.outcome_continued_iff _).mpr ⟨hs, rfl⟩

/-- What is stored where PC comes to stand is the byte the next step runs (R84, R366). -/
theorem next_fetch_of_storeReg {s : State} {r : Reg} {m : Mode} (hs : s.fault = none)
    (hexec : exec (decodeOpcode (s.memRead s.pc)) s.fetched = storeReg r m s.fetched)
    (he : ea m (afterFetch s) = some (s.pc + BitVec.ofNat 16 (lengthOf (s.memRead s.pc)))) :
    ∃ t, step s = .next t ∧ t.memRead t.pc = s.fetched.reg r ∧
      step t = finish (lengthOf (s.fetched.reg r))
        (exec (decodeOpcode (s.fetched.reg r)) (afterFetch t)) := by
  refine ⟨_, step_of_storeReg hs hexec he, ?_⟩
  generalize ht : State.advance _ _ = t
  have hread : t.memRead t.pc = s.fetched.reg r := by
    have hpc : t.pc = s.pc + BitVec.ofNat 16 (lengthOf (s.memRead s.pc)) := by
      rw [← ht, ← succ_add_lengthOf]
      rfl
    rw [hpc, ← ht]
    exact memRead_memWrite_same _ _ _
  have hfault : t.fault = none := by
    rw [← ht]
    exact hs
  rw [step_of_none hfault, hread]
  exact ⟨rfl, rfl⟩

/-- Settles O35: the three stores are one handler body, and the next fetch reads what it wrote. -/
theorem nextFetchSeesTheStore : Obligations.NextFetchSeesTheStore := by
  rintro s m v hs (⟨hop, rfl⟩ | ⟨hop, rfl⟩ | ⟨hop, rfl⟩) he
  · exact next_fetch_of_storeReg (r := .a) hs (by rw [hop]; rfl) he
  · exact next_fetch_of_storeReg (r := .x) hs (by rw [hop]; rfl) he
  · exact next_fetch_of_storeReg (r := .y) hs (by rw [hop]; rfl) he

end Sys2Proof.Machine
